-- ==== Sys2Proof/Word.lean ====
section
/-! DEFINITION. The bit vectors the spec names: a byte of memory (20_memory R50), a 32-bit descriptor
word or register (30_encoding R80), a 16-bit RGB565 pixel (R91), and a pixel as the byte group that
00_scope R12 reads, writes and compares. -/

namespace Sys2Proof

/-- A byte is 8 bits (R50). -/
abbrev Byte := BitVec 8

/-- A word of the descriptor (R80); also the width of RESULT (R25). -/
abbrev Word := BitVec 32

/-- An RGB565 pixel as one value (R91). -/
abbrev Rgb565 := BitVec 16

/-- A pixel as its bytes in increasing address order; two pixels are equal when their byte groups
are equal byte for byte (R12). -/
abbrev Pixel := List Byte

end Sys2Proof
end

