-- ==== Sys2Proof/Config.lean ====
section
/-! DEFINITION. What an implementation fixes (00_scope R8: each parameter with its default) and the
free values: constants without a body, of which nothing can be proved but that they are some value. -/

namespace Sys2Proof

/-- `RGB565_BYTE_ORDER` (R57, D7): which byte of an RGB565 pixel lies at the lower address. -/
inductive ByteOrder where
  | little
  | big
  deriving DecidableEq, Repr

/-- `CH3_SELECT` (R142, D8): which three bits of a channel feed a dot pair. -/
inductive Ch3Select where
  | low3
  | high3
  deriving DecidableEq, Repr

/-- `BILINEAR_ROUND` (R223, D9): how an interpolated value becomes an integer. -/
inductive Rounding where
  | trunc
  | nearest
  deriving DecidableEq, Repr

/-- Which numeric function BILINEAR applies (R224, U14; log 8): the default, or another one of the implementation.
The name of the function stands here, as plain data, in place of the function. -/
inductive InterpChoice where
  /-- The exact arithmetic of R222 and R223, with `BILINEAR_ROUND`. -/
  | exact
  /-- The implementation's own: the free function `Config.freeInterp id`. -/
  | other (id : Nat)
  deriving DecidableEq, Repr

/-- The parameters of R8, and the configuration field of R224, with the defaults the spec states. -/
structure Config where
  /-- `AW`: width of a byte address. -/
  aw : Nat := 32
  /-- `DIM_BITS`: width of the wide dimension fields. -/
  dimBits : Nat := 16
  /-- `NARROW_MAX`: largest dimension SCALEDOWN_IDX accepts. -/
  narrowMax : Nat := 255
  /-- `BPP_SET`: legal bytes per pixel of the generic commands. -/
  bppSet : List Nat := [1, 2, 3]
  /-- `BITLEN_MAX`: largest legal BITLEN. -/
  bitlenMax : Nat := 8
  byteOrder : ByteOrder := .little
  ch3Select : Ch3Select := .low3
  bilinearRound : Rounding := .trunc
  /-- `Interp`: the numerics of BILINEAR (R224, D9). -/
  interp : InterpChoice := .exact
  deriving DecidableEq, Repr

/-- Every parameter at its default (R8, R224). -/
def Config.std : Config := {}

/-- The width of a dimension field: `DIM_BITS`, and at most the 16 bits its place in the descriptor has
(R8, R81; log 24). -/
def Config.dimWidth (cfg : Config) : Nat := min cfg.dimBits 16

/-- The width of an address field: `AW`, and at most the 32 bits its place in the descriptor has (R8, R81;
log 24). -/
def Config.addrWidth (cfg : Config) : Nat := min cfg.aw 32

/-- The numeric function of BILINEAR (R224), in the order
`Interp(C00, C10, C01, C11, x, y, sw, sh, scw, sch, n)`. -/
abbrev Interp := Nat → Nat → Nat → Nat → Nat → Nat → Nat → Nat → Nat → Nat → Nat → Nat

/-- FREE VALUE (log 8): the numeric function number `id` of an implementation that does not compute with the
default of R224. Any function, of which nothing is known. -/
opaque Config.freeInterp (id c00 c10 c01 c11 x y sw sh scw sch n : Nat) : Nat

/-- FREE VALUE (log 6): which candidate byte remains at destination offset `offset` when several dot
pairs of one SPLITDOTS command map to it (R158, U13); `use` numbers the commands. -/
opaque Config.freePick (use offset : Nat) : Nat

/-- FREE VALUE (log 4): the byte at address `addr` of the destination extent of a command that RESET
interrupted (R30, U24). -/
opaque Config.freeByte (use addr : Nat) : Byte

/-- FREE VALUE (log 3): descriptor word `index` (0 to 11), or RESULT (12), after a RESET action
(R30, U21). -/
opaque Config.freeWord (use index : Nat) : Word

/-- FREE VALUE (log 13): what a field holds after a WRITE of a value that is too wide for it (R21, R26). -/
opaque Config.freeField (use : Nat) : Word

/-- `REG_BASE` (R53, D19, U28): OPEN, without a default; no rule computes with it (log 22). -/
opaque Config.regBase : Nat

end Sys2Proof
end

