-- ==== Sys2Proof/Syntax.lean ====
section
/-! DEFINITION. The command set: the descriptor as the record of 10_state R21 (with the reserved bits
of 30_encoding R81), and the twelve commands of R84, each with exactly the fields R84 lists for it. -/

namespace Sys2Proof

/-- ColorMatrix (R97). -/
inductive ColorMatrix where
  | rgb
  | rbg
  deriving DecidableEq, Repr

/-- The descriptor `D` (R21), every field at its width, and the reserved bits of R81, which the host
can set and which START refuses when set (R86). -/
structure Desc where
  op : BitVec 8
  rsvW0 : BitVec 24
  srcBase : Word
  srcLen : Word
  dstBase : Word
  dstLen : Word
  palBase : Word
  palLen : Word
  srcW : BitVec 16
  srcH : BitVec 16
  dstW : BitVec 16
  dstH : BitVec 16
  bpp : BitVec 4
  cm : BitVec 1
  rsvW9lo : BitVec 3
  bitlen : BitVec 4
  rsvW9hi : BitVec 4
  nlr : BitVec 16
  count : Word
  x : BitVec 16
  y : BitVec 16
  deriving DecidableEq, Repr

/-- A buffer: the bytes at addresses `base .. base + len - 1` (R51). -/
structure Buf where
  base : Nat
  len : Nat
  deriving DecidableEq, Repr

/-- The commands of R84. Operands are natural numbers (R9): what decoding reads from the fields. -/
inductive Instr where
  /-- MAPADDR, OP 0x01 (R124). -/
  | mapaddr (x y sw sh nlr : Nat)
  /-- IDX2RGB24, OP 0x02 (R145). -/
  | idx2rgb24 (src pal dst : Buf) (count : Nat)
  /-- SPLITPLANES, OP 0x03 (R150). -/
  | splitplanes (src dst : Buf) (sw sh bitlen : Nat)
  /-- SPLITDOTS, OP 0x04 (R156). -/
  | splitdots (src dst : Buf) (sw sh nlr : Nat) (cm : ColorMatrix)
  /-- SCALEDOWN_IDX, OP 0x05 (R186). -/
  | scaledownIdx (src dst : Buf) (sw sh dw dh : Nat)
  /-- SCALEDOWN_PUP, OP 0x06 (R187). -/
  | scaledownPup (src dst : Buf) (sw sh dw dh : Nat)
  /-- SCALEDOWN, OP 0x07 (R188). -/
  | scaledown (src dst : Buf) (sw sh dw dh bpp : Nat)
  /-- SCALEUP_IDX, OP 0x08 (R205). -/
  | scaleupIdx (src dst : Buf) (sw sh : Nat)
  /-- SCALEUP, OP 0x09 (R206). -/
  | scaleup (src dst : Buf) (sw sh bpp : Nat)
  /-- BILINEAR, OP 0x0A (R226). -/
  | bilinear (src dst : Buf) (sw sh dw dh : Nat)
  /-- CENTER_IDX, OP 0x0B (R244). -/
  | centerIdx (src dst : Buf) (sw sh dw dh : Nat)
  /-- CENTER, OP 0x0C (R245). -/
  | center (src dst : Buf) (sw sh dw dh bpp : Nat)
  deriving DecidableEq, Repr

end Sys2Proof
end

