-- ==== Sys2Proof/WellFormed.lean ====
section
/-! DEFINITION. When a command can be encoded at all: every operand fits its descriptor field (10_state
R21). The preconditions of the commands are no part of this: a descriptor that breaks one decodes, and
its command faults with PARAM (60_exceptions R262). -/

namespace Sys2Proof

/-- A length or count field: 32 bits (R21). -/
def fitsWord (n : Nat) : Bool := n < 2 ^ 32

/-- An address field: `AW` bits (R8, R21; log 24). -/
def fitsAddr (cfg : Config) (n : Nat) : Bool := n < 2 ^ cfg.addrWidth

/-- A wide dimension field: `DIM_BITS` bits (R8, R21; log 24). -/
def fitsDim (cfg : Config) (n : Nat) : Bool := n < 2 ^ cfg.dimWidth

/-- The BPP and BITLEN fields: 4 bits (R21). -/
def fitsNibble (n : Nat) : Bool := n < 2 ^ 4

/-- Base and length of a buffer fit their fields (R21). -/
def fitsBuf (cfg : Config) (b : Buf) : Bool := fitsAddr cfg b.base && fitsWord b.len

/-- Two dimensions fit their fields. -/
def fitsSize (cfg : Config) (w h : Nat) : Bool := fitsDim cfg w && fitsDim cfg h

/-- Every operand of the command fits the field that carries it. -/
def WellFormed (cfg : Config) : Instr → Bool
  | .mapaddr x y sw sh nlr => fitsSize cfg x y && fitsSize cfg sw sh && fitsDim cfg nlr
  | .idx2rgb24 src pal dst count => fitsBuf cfg src && fitsBuf cfg pal && fitsBuf cfg dst && fitsWord count
  | .splitplanes src dst sw sh bitlen => fitsBuf cfg src && fitsBuf cfg dst && fitsSize cfg sw sh && fitsNibble bitlen
  | .splitdots src dst sw sh nlr _ => fitsBuf cfg src && fitsBuf cfg dst && fitsSize cfg sw sh && fitsDim cfg nlr
  | .scaledownIdx src dst sw sh dw dh => fitsBuf cfg src && fitsBuf cfg dst && fitsSize cfg sw sh && fitsSize cfg dw dh
  | .scaledownPup src dst sw sh dw dh => fitsBuf cfg src && fitsBuf cfg dst && fitsSize cfg sw sh && fitsSize cfg dw dh
  | .scaledown src dst sw sh dw dh bpp =>
      fitsBuf cfg src && fitsBuf cfg dst && fitsSize cfg sw sh && fitsSize cfg dw dh && fitsNibble bpp
  | .scaleupIdx src dst sw sh => fitsBuf cfg src && fitsBuf cfg dst && fitsSize cfg sw sh
  | .scaleup src dst sw sh bpp => fitsBuf cfg src && fitsBuf cfg dst && fitsSize cfg sw sh && fitsNibble bpp
  | .bilinear src dst sw sh dw dh => fitsBuf cfg src && fitsBuf cfg dst && fitsSize cfg sw sh && fitsSize cfg dw dh
  | .centerIdx src dst sw sh dw dh => fitsBuf cfg src && fitsBuf cfg dst && fitsSize cfg sw sh && fitsSize cfg dw dh
  | .center src dst sw sh dw dh bpp =>
      fitsBuf cfg src && fitsBuf cfg dst && fitsSize cfg sw sh && fitsSize cfg dw dh && fitsNibble bpp

end Sys2Proof
end

