-- ==== Sys2Proof/Decode.lean ====
section
/-! DEFINITION. The format DESC (30_encoding R80 to R87): bytes to words, words to the descriptor's
fields, the descriptor to a command or a named rejection; after it the encoder, from the same tables. -/

namespace Sys2Proof

/-- Why a descriptor selects no command. -/
inductive Reject where
  /-- Fewer than 48 bytes (R83). -/
  | truncated
  /-- OP is not 0x01 to 0x0C (R85). -/
  | illegalOp (op : BitVec 8)
  /-- OP is assigned and a reserved bit is set (R86). -/
  | reservedBits
  deriving DecidableEq, Repr

/-- A word from its four bytes, least significant byte first (R83). -/
def wordOfBytes (b0 b1 b2 b3 : Byte) : Word := b3 ++ b2 ++ b1 ++ b0

/-- The four bytes of a word, least significant first (R83). -/
def bytesOfWord (w : Word) : List Byte :=
  [w.extractLsb' 0 8, w.extractLsb' 8 8, w.extractLsb' 16 8, w.extractLsb' 24 8]

/-- The first `n` words of a list of bytes, and the bytes after them; none when it is too short. -/
def takeWords : Nat → List Byte → Option (List Word × List Byte)
  | 0, bs => some ([], bs)
  | n + 1, b0 :: b1 :: b2 :: b3 :: bs =>
    match takeWords n bs with
    | some (ws, rest) => some (wordOfBytes b0 b1 b2 b3 :: ws, rest)
    | none => none
  | _ + 1, _ => none

/-- The fields of the twelve words W0 to W11 (R81, R82). -/
def descOfWords : List Word → Option Desc
  | [w0, w1, w2, w3, w4, w5, w6, w7, w8, w9, w10, w11] =>
    some
      { op := w0.extractLsb' 0 8
        rsvW0 := w0.extractLsb' 8 24
        srcBase := w1
        srcLen := w2
        dstBase := w3
        dstLen := w4
        palBase := w5
        palLen := w6
        srcW := w7.extractLsb' 0 16
        srcH := w7.extractLsb' 16 16
        dstW := w8.extractLsb' 0 16
        dstH := w8.extractLsb' 16 16
        bpp := w9.extractLsb' 0 4
        cm := w9.extractLsb' 4 1
        rsvW9lo := w9.extractLsb' 5 3
        bitlen := w9.extractLsb' 8 4
        rsvW9hi := w9.extractLsb' 12 4
        nlr := w9.extractLsb' 16 16
        count := w10
        x := w11.extractLsb' 0 16
        y := w11.extractLsb' 16 16 }
  | _ => none

/-- The twelve words of a descriptor (R81). -/
def wordsOfDesc (d : Desc) : List Word :=
  [ d.rsvW0 ++ d.op, d.srcBase, d.srcLen, d.dstBase, d.dstLen, d.palBase, d.palLen,
    d.srcH ++ d.srcW, d.dstH ++ d.dstW,
    d.nlr ++ d.rsvW9hi ++ d.bitlen ++ d.rsvW9lo ++ d.cm ++ d.bpp,
    d.count, d.y ++ d.x ]

/-- A descriptor from its 48 bytes, and the bytes after it (R83). -/
def takeDesc (bs : List Byte) : Option (Desc × List Byte) :=
  match takeWords 12 bs with
  | some (ws, rest) =>
    match descOfWords ws with
    | some d => some (d, rest)
    | none => none
  | none => none

/-- The value of an address field: its low `AW` bits (R21, R82; log 24). -/
def addrOf (cfg : Config) (v : Word) : Nat := v.toNat % 2 ^ cfg.addrWidth

/-- The value of a dimension field: its low `DIM_BITS` bits (R21, R82; log 24). -/
def dimOf (cfg : Config) (v : BitVec 16) : Nat := v.toNat % 2 ^ cfg.dimWidth

/-- The source buffer a descriptor names (R51). -/
def srcOf (cfg : Config) (d : Desc) : Buf := ⟨addrOf cfg d.srcBase, d.srcLen.toNat⟩

/-- The destination buffer a descriptor names (R51). -/
def dstOf (cfg : Config) (d : Desc) : Buf := ⟨addrOf cfg d.dstBase, d.dstLen.toNat⟩

/-- The palette buffer a descriptor names (R51). -/
def palOf (cfg : Config) (d : Desc) : Buf := ⟨addrOf cfg d.palBase, d.palLen.toNat⟩

/-- CM: 0 = Rgb, 1 = Rbg (R97). -/
def matrixOfBit (b : BitVec 1) : ColorMatrix := if b = 0#1 then .rgb else .rbg

/-- The CM bit of a ColorMatrix (R97). -/
def bitOfMatrix : ColorMatrix → BitVec 1
  | .rgb => 0#1
  | .rbg => 1#1

/-- The command table of R84: the command an OP selects, with the fields R84 lists; none for an
unassigned OP (R85). Every other field is ignored (R87). -/
def selectInstr (cfg : Config) (d : Desc) : Option Instr :=
  let src := srcOf cfg d
  let dst := dstOf cfg d
  let sw := dimOf cfg d.srcW
  let sh := dimOf cfg d.srcH
  let dw := dimOf cfg d.dstW
  let dh := dimOf cfg d.dstH
  let nlr := dimOf cfg d.nlr
  match d.op.toNat with
  | 0x01 => some (.mapaddr (dimOf cfg d.x) (dimOf cfg d.y) sw sh nlr)
  | 0x02 => some (.idx2rgb24 src (palOf cfg d) dst d.count.toNat)
  | 0x03 => some (.splitplanes src dst sw sh d.bitlen.toNat)
  | 0x04 => some (.splitdots src dst sw sh nlr (matrixOfBit d.cm))
  | 0x05 => some (.scaledownIdx src dst sw sh dw dh)
  | 0x06 => some (.scaledownPup src dst sw sh dw dh)
  | 0x07 => some (.scaledown src dst sw sh dw dh d.bpp.toNat)
  | 0x08 => some (.scaleupIdx src dst sw sh)
  | 0x09 => some (.scaleup src dst sw sh d.bpp.toNat)
  | 0x0A => some (.bilinear src dst sw sh dw dh)
  | 0x0B => some (.centerIdx src dst sw sh dw dh)
  | 0x0C => some (.center src dst sw sh dw dh d.bpp.toNat)
  | _ => none

/-- W0[31:8], W9[7:5] and W9[15:12] are zero (R86). -/
def reservedClear (d : Desc) : Bool := d.rsvW0 = 0 ∧ d.rsvW9lo = 0 ∧ d.rsvW9hi = 0

/-- The command of a descriptor: first the OP (R85), then the reserved bits (R86). -/
def decodeDesc (cfg : Config) (d : Desc) : Except Reject Instr :=
  match selectInstr cfg d with
  | none => .error (.illegalOp d.op)
  | some i => if reservedClear d then .ok i else .error .reservedBits

/-- The command of 48 serialised bytes (R83), and the bytes after them. -/
def decodeBytes (cfg : Config) (bs : List Byte) : Except Reject (Instr × List Byte) :=
  match takeDesc bs with
  | none => .error .truncated
  | some (d, rest) =>
    match decodeDesc cfg d with
    | .error r => .error r
    | .ok i => .ok (i, rest)

/-- The code of a command (R84). -/
def opcode : Instr → BitVec 8
  | .mapaddr .. => 0x01
  | .idx2rgb24 .. => 0x02
  | .splitplanes .. => 0x03
  | .splitdots .. => 0x04
  | .scaledownIdx .. => 0x05
  | .scaledownPup .. => 0x06
  | .scaledown .. => 0x07
  | .scaleupIdx .. => 0x08
  | .scaleup .. => 0x09
  | .bilinear .. => 0x0A
  | .centerIdx .. => 0x0B
  | .center .. => 0x0C

/-- A field not written is zero in the encoding (R88). -/
def zeroDesc : Desc :=
  { op := 0, rsvW0 := 0, srcBase := 0, srcLen := 0, dstBase := 0, dstLen := 0, palBase := 0, palLen := 0,
    srcW := 0, srcH := 0, dstW := 0, dstH := 0, bpp := 0, cm := 0, rsvW9lo := 0, bitlen := 0, rsvW9hi := 0,
    nlr := 0, count := 0, x := 0, y := 0 }

/-- A descriptor with an OP, a source and a destination, and zero elsewhere. -/
def descWith (op : BitVec 8) (src dst : Buf) : Desc :=
  { zeroDesc with
    op := op
    srcBase := BitVec.ofNat 32 src.base
    srcLen := BitVec.ofNat 32 src.len
    dstBase := BitVec.ofNat 32 dst.base
    dstLen := BitVec.ofNat 32 dst.len }

/-- The descriptor with source dimensions (R81, W7). -/
def withSrcSize (d : Desc) (w h : Nat) : Desc :=
  { d with srcW := BitVec.ofNat 16 w, srcH := BitVec.ofNat 16 h }

/-- The descriptor with destination dimensions (R81, W8). -/
def withDstSize (d : Desc) (w h : Nat) : Desc :=
  { d with dstW := BitVec.ofNat 16 w, dstH := BitVec.ofNat 16 h }

/-- The descriptor with a BPP (R81, W9). -/
def withBpp (d : Desc) (bpp : Nat) : Desc := { d with bpp := BitVec.ofNat 4 bpp }

/-- The descriptor of a command: its OP and the fields R84 lists, every other field zero (R84, R88). -/
def descOfInstr : Instr → Desc
  | .mapaddr x y sw sh nlr =>
    { withSrcSize { zeroDesc with op := opcode (.mapaddr x y sw sh nlr) } sw sh with
      x := BitVec.ofNat 16 x, y := BitVec.ofNat 16 y, nlr := BitVec.ofNat 16 nlr }
  | .idx2rgb24 src pal dst count =>
    { descWith (opcode (.idx2rgb24 src pal dst count)) src dst with
      palBase := BitVec.ofNat 32 pal.base, palLen := BitVec.ofNat 32 pal.len
      count := BitVec.ofNat 32 count }
  | .splitplanes src dst sw sh bitlen =>
    { withSrcSize (descWith (opcode (.splitplanes src dst sw sh bitlen)) src dst) sw sh with
      bitlen := BitVec.ofNat 4 bitlen }
  | .splitdots src dst sw sh nlr cm =>
    { withSrcSize (descWith (opcode (.splitdots src dst sw sh nlr cm)) src dst) sw sh with
      nlr := BitVec.ofNat 16 nlr, cm := bitOfMatrix cm }
  | .scaledownIdx src dst sw sh dw dh =>
    withDstSize (withSrcSize (descWith (opcode (.scaledownIdx src dst sw sh dw dh)) src dst) sw sh) dw dh
  | .scaledownPup src dst sw sh dw dh =>
    withDstSize (withSrcSize (descWith (opcode (.scaledownPup src dst sw sh dw dh)) src dst) sw sh) dw dh
  | .scaledown src dst sw sh dw dh bpp =>
    withBpp (withDstSize
      (withSrcSize (descWith (opcode (.scaledown src dst sw sh dw dh bpp)) src dst) sw sh) dw dh) bpp
  | .scaleupIdx src dst sw sh =>
    withSrcSize (descWith (opcode (.scaleupIdx src dst sw sh)) src dst) sw sh
  | .scaleup src dst sw sh bpp =>
    withBpp (withSrcSize (descWith (opcode (.scaleup src dst sw sh bpp)) src dst) sw sh) bpp
  | .bilinear src dst sw sh dw dh =>
    withDstSize (withSrcSize (descWith (opcode (.bilinear src dst sw sh dw dh)) src dst) sw sh) dw dh
  | .centerIdx src dst sw sh dw dh =>
    withDstSize (withSrcSize (descWith (opcode (.centerIdx src dst sw sh dw dh)) src dst) sw sh) dw dh
  | .center src dst sw sh dw dh bpp =>
    withBpp (withDstSize
      (withSrcSize (descWith (opcode (.center src dst sw sh dw dh bpp)) src dst) sw sh) dw dh) bpp

/-- The bytes of a list of words, in order (R83). -/
def bytesOfWords : List Word → List Byte
  | [] => []
  | w :: ws => bytesOfWord w ++ bytesOfWords ws

/-- The 48 bytes of a command (R81, R83). -/
def encode (i : Instr) : List Byte := bytesOfWords (wordsOfDesc (descOfInstr i))

/-- The first `n` bytes of a number, least significant first. -/
def bytesOfNat : Nat → Nat → List Byte
  | 0, _ => []
  | n + 1, w => BitVec.ofNat 8 w :: bytesOfNat n (w / 256)

/-- The 48 bytes whose bits, numbered from bit 0 of W0, are the low `nbits` bits of `w` (`nbits` in whole
bytes), and zero above. -/
def tableBytes (nbits w : Nat) : List Byte :=
  bytesOfNat (min (nbits / 8) 48) w ++ List.replicate (48 - nbits / 8) 0

/-- The descriptor of those bytes; they are always 48, so the descriptor always exists. -/
def tableDesc (nbits w : Nat) : Desc :=
  match takeDesc (tableBytes nbits w) with
  | some (d, _) => d
  | none => zeroDesc

/-- The command the decoder reads from those bytes, the parameters being at their defaults. -/
def decodeTableWord (nbits w : Nat) : Option Instr :=
  match decodeBytes Config.std (tableBytes nbits w) with
  | .ok (i, _) => some i
  | .error _ => none

end Sys2Proof
end

