-- ==== Sys2Proof/Machine/State.lean ====
section
/-! DEFINITION. The state of the machine as plain data: the block's registers (10_state R20 to R25), the
host's memory (20_memory R50), the host actions still to come (R26), and the model's own bookkeeping;
the state right after reset (R30); the ways a step can stop. -/

namespace Sys2Proof.Machine

/-- STATUS.STATE (R23). -/
inductive Status where
  | idle
  | busy
  | done
  | fault
  deriving DecidableEq, Repr

/-- The fault classes of a command (R261); CAUSE holds their code. -/
inductive Cause where
  | illegalOp
  | param
  | bounds
  | overlap
  deriving DecidableEq, Repr

/-- The fields of the descriptor a WRITE or READ can name (R21), and its reserved bit groups (R81). -/
inductive Field where
  | op | rsvW0 | srcBase | srcLen | dstBase | dstLen | palBase | palLen
  | srcW | srcH | dstW | dstH | bpp | cm | rsvW9lo | bitlen | rsvW9hi | nlr | count | x | y
  deriving DecidableEq, Repr

/-- What a READ can name (R26). -/
inductive Reg where
  | status
  | cause
  | result
  | field (f : Field)
  deriving DecidableEq, Repr

/-- What the host does next: the five actions of R26, the host's own accesses to its memory (R294), and
letting the block have its turn. -/
inductive HostAction where
  /-- No action of the host: the block has its turn (log 10). -/
  | wait
  /-- `WRITE(field, value)`. -/
  | write (f : Field) (value : Nat)
  /-- `START`. -/
  | start
  /-- `CLEAR`. -/
  | clear
  /-- `READ(register)`. -/
  | read (r : Reg)
  /-- `RESET`. -/
  | reset
  /-- The host stores a byte in its memory. -/
  | memWrite (addr : Nat) (value : Byte)
  /-- The host loads a byte of its memory. -/
  | memRead (addr : Nat)
  deriving DecidableEq, Repr

/-- An extent of memory the host has handed to the block with a START (R294, R295). -/
structure Extent where
  base : Nat
  len : Nat
  /-- It is the destination extent: the host may not even read it. -/
  isDst : Bool
  deriving DecidableEq, Repr

/-- Memory as the bytes that are not 0, in rising order of address (log 5). -/
abbrev Memory := List Host.Cell

/-- What the machine holds. -/
structure State where
  /-- The parameters of the implementation (R8, R224). No step changes them (log 7). -/
  cfg : Config
  /-- The descriptor `D` (R21). -/
  desc : Desc
  /-- The descriptor fields the host has written since reset, none twice: what R291 (a) asks of the host before a
  START. No step depends on it (log 25). -/
  written : List Field
  /-- STATUS.STATE (R23). -/
  status : Status
  /-- CAUSE (R24). -/
  cause : BitVec 8
  /-- RESULT (R25). -/
  result : Word
  /-- The memory of the platform (R50). -/
  mem : Memory
  /-- The extents the host has handed over and not yet taken back (R294, R295; log 11). -/
  lent : List Extent
  /-- What the host's last READ or memory load returned (R26; log 14). -/
  readData : Word
  /-- The host's next actions, in order (R26; log 10). -/
  pending : List HostAction
  /-- Numbers the uses of free values (the model's own; log 19). -/
  freeCount : Nat
  deriving DecidableEq, Repr

/-- After reset (R30): IDLE, CAUSE 0. The spec gives RESULT (log 1) and the descriptor (log 2) no value:
0 here, and the host has written no field (log 25). Nothing is written in memory (log 5), and the host has
done nothing yet (log 10). The parameters are at their defaults (R8). -/
def State.reset : State :=
  { cfg := Config.std
    desc :=
      { op := 0, rsvW0 := 0, srcBase := 0, srcLen := 0, dstBase := 0, dstLen := 0, palBase := 0, palLen := 0,
        srcW := 0, srcH := 0, dstW := 0, dstH := 0, bpp := 0, cm := 0, rsvW9lo := 0, bitlen := 0, rsvW9hi := 0,
        nlr := 0, count := 0, x := 0, y := 0 }
    written := []
    status := .idle
    cause := 0
    result := 0
    mem := []
    lent := []
    readData := 0
    pending := []
    freeCount := 0 }

/-- A stop that is a host access to an address that does not exist. No command raises one: the faults of
R261 are next states. -/
inductive Fault where
  /-- Raised by a host memory access at or above `2^AW` (R50; log 16). Safe: the machine stops. -/
  | outsideAddressSpace (addr : Nat)
  deriving DecidableEq, Repr

/-- A host action the spec gives no effect. No command raises one. -/
inductive Refusal where
  /-- Raised by exec for a command without a meaning; no arm does. Safe. -/
  | notModelled (mnemonic : String)
  /-- Raised by WRITE while BUSY: illegal, its effect unspecified (R296, U23). Safe. -/
  | writeWhileBusy
  /-- Raised by START while BUSY: illegal, its effect unspecified (R27, R296, U23). Safe. -/
  | startWhileBusy
  /-- Raised by CLEAR while BUSY: illegal, its effect unspecified (R26, R296, U23). Safe. -/
  | clearWhileBusy
  /-- Raised by a READ of anything but STATUS while BUSY: illegal (R296, D22; log 12). Safe. -/
  | readWhileBusy
  /-- Raised by a host access to memory the block still has (R295, U9; log 11). Safe. -/
  | bufferLent (addr : Nat)
  deriving DecidableEq, Repr

end Sys2Proof.Machine
end

