-- ==== Sys2Proof/Machine/Flags.lean ====
section
/-! DEFINITION. The status bits. The block has no condition codes and no arithmetic flags (10_state R31):
STATUS.STATE and CAUSE are all there is, and these are their codes. -/

namespace Sys2Proof.Machine

/-- The code STATUS.STATE shows the host (R23). -/
def statusCode : Status → BitVec 2
  | .idle => 0
  | .busy => 1
  | .done => 2
  | .fault => 3

/-- The code CAUSE takes (R261). -/
def causeCode : Cause → BitVec 8
  | .illegalOp => 1
  | .param => 2
  | .bounds => 3
  | .overlap => 4

/-- The fault of a descriptor that selects no command: ILLEGAL_OP for the OP (R85), PARAM for a reserved
bit (R86). A descriptor in the block's registers is never truncated. -/
def rejectCause : Reject → Cause
  | .truncated => .illegalOp
  | .illegalOp _ => .illegalOp
  | .reservedBits => .param

end Sys2Proof.Machine
end

