-- ==== Sys2Proof/Machine/Ops.lean ====
section
/-! DEFINITION. The named operations over memory and registers; the checks of START in their one order
(60_exceptions R262); fault entry (R265), fault return (10_state R26) and the end of a command (R27). -/

namespace Sys2Proof.Machine

/-! Memory -/

/-- The byte at an address; an address that is not listed holds 0 (log 5). -/
def Memory.read : Memory → Nat → Byte
  | [], _ => 0
  | (k, b) :: m, a => if k = a then b else Memory.read m a

/-- The canonical form: addresses strictly rising, and no 0 listed. -/
abbrev Memory.wf (m : Memory) : Prop := m.Pairwise (fun c d => c.1 < d.1) ∧ ∀ c ∈ m, c.2 ≠ 0

/-- Every listed address exists: it is below `2^AW` (R50). -/
abbrev Memory.inSpace (cfg : Config) (m : Memory) : Prop := ∀ c ∈ m, c.1 < 2 ^ cfg.aw

/-- The cells of the `n` bytes `f 0, f 1, ..` at address `base + o` and up, from offset `o` on; 0 bytes are
not listed. -/
def Memory.cells (base : Nat) (f : Nat → Byte) : Nat → Nat → Memory
  | _, 0 => []
  | o, n + 1 =>
    let b := f o
    if b = 0 then Memory.cells base f (o + 1) n else (base + o, b) :: Memory.cells base f (o + 1) n

/-- The memory whose `len` bytes from `base` on are `f 0, f 1, ..`, and every other byte as in `m`. All the
stores of a command at once: their order is not observable (R60). -/
def Memory.store (m : Memory) (base len : Nat) (f : Nat → Byte) : Memory :=
  m.filter (fun c => c.1 < base) ++ Memory.cells base f 0 len ++ m.filter (fun c => base + len ≤ c.1)

/-! Buffers and the checks of START -/

/-- A buffer a command uses, and how many of its bytes it needs (R55). -/
structure Use where
  buf : Buf
  need : Nat
  deriving DecidableEq, Repr

/-- What START checks of a command: whether its parameter preconditions hold, the buffers it reads (the
source, then the palette), and the buffer it writes (R262). -/
structure Job where
  pre : Bool
  reads : List Use
  write : Option Use
  deriving DecidableEq, Repr

/-- The buffers a command uses in the order source, palette, destination (R262). -/
def Job.uses (j : Job) : List Use := j.reads ++ j.write.toList

/-- The buffer lies in the address space (R51, R262 check 3). -/
abbrev Use.inSpace (cfg : Config) (u : Use) : Prop := u.buf.base + u.buf.len ≤ 2 ^ cfg.aw

/-- The buffer has the bytes the command needs (R55, R262 check 4). -/
abbrev Use.longEnough (u : Use) : Prop := u.need ≤ u.buf.len

/-- The bytes the command needs of two buffers are disjoint; an extent of length 0 is disjoint from
everything (R62, R262 check 5). -/
abbrev Use.apart (u v : Use) : Prop :=
  u.need = 0 ∨ v.need = 0 ∨ u.buf.base + u.need ≤ v.buf.base ∨ v.buf.base + v.need ≤ u.buf.base

/-- Address `a` lies in the bytes the command needs of the buffer. -/
abbrev Use.covers (u : Use) (a : Nat) : Prop := u.buf.base ≤ a ∧ a < u.buf.base + u.need

/-- The first check of R262 that fails, from check 2's preconditions on; none when all hold. -/
def Job.fault (cfg : Config) (j : Job) : Option Cause :=
  if j.pre = false then some .param
  else if ¬ ∀ u ∈ j.uses, u.inSpace cfg then some .bounds
  else if ¬ ∀ u ∈ j.uses, u.longEnough then some .bounds
  else if ¬ ∀ d ∈ j.write, ∀ u ∈ j.reads, d.apart u then some .overlap
  else none

/-- The extents START hands to the block (R294, R295). -/
def Job.extents (j : Job) : List Extent :=
  j.reads.map (fun u => ⟨u.buf.base, u.need, false⟩) ++
    j.write.toList.map (fun u => ⟨u.buf.base, u.need, true⟩)

/-- Address `a` lies in the extent. -/
abbrev Extent.covers (e : Extent) (a : Nat) : Prop := e.base ≤ a ∧ a < e.base + e.len

/-! Registers: the end of a command, a fault, and the return from it -/

/-- Fault entry: STATE <- FAULT and CAUSE <- code, and nothing else (R265). -/
def State.takeFault (s : State) (c : Cause) : State := { s with status := .fault, cause := causeCode c }

/-- Fault return, CLEAR: STATE <- IDLE and CAUSE <- 0; D and RESULT stay (R26, R266). -/
def State.clearFault (s : State) : State := { s with status := .idle, cause := 0 }

/-- The end of a command without a fault: STATE <- DONE (R27); CAUSE is 0 whenever STATE is not FAULT
(R24). -/
def State.finish (s : State) : State := { s with status := .done, cause := 0 }

/-- RESULT <- v (R11, R25). -/
def State.setResult (s : State) (v : Word) : State := { s with result := v }

/-- The destination bytes of a command: byte `f o` at offset `o` of the buffer, for the first `len`
offsets (R66, R67). -/
def State.storeDst (s : State) (dst : Buf) (len : Nat) (f : Nat → Byte) : State :=
  { s with mem := Memory.store s.mem dst.base len f }

/-- A free value has been used: the next use is another one (log 19). -/
def State.bumpFree (s : State) : State := { s with freeCount := s.freeCount + 1 }

/-- One command (R27): the checks in their order, and on the first that fails the fault and nothing else;
otherwise the command's effect, and DONE. -/
def runJob (j : Job) (effect : State → State) (s : State) : Host.Outcome State Fault Refusal :=
  match j.fault s.cfg with
  | some c => .next (s.takeFault c)
  | none => .next (effect s).finish

end Sys2Proof.Machine
end

