-- ==== Sys2Proof/Machine/Operands.lean ====
section
/-! DEFINITION. The operand forms of the commands: a byte of a buffer (00_scope R11), a pixel of a frame
(R12), an RGB565 pixel in its byte order (20_memory R57), the 5-6-5 fields (41_color_codec R141), and a
destination given pixel by pixel, with or without a zero-filled border. -/

namespace Sys2Proof.Machine

/-- The byte at offset `o` of a buffer: `Src(o)` or `Pal(o)` (R11, R66). -/
def bufByte (m : Memory) (b : Buf) (o : Nat) : Byte := Memory.read m (b.base + o)

/-- The `bpp` bytes of pixel (`x`, `y`) of a frame `w` pixels wide, in increasing address order (R12). -/
def framePx (m : Memory) (b : Buf) (bpp w x y : Nat) : Pixel :=
  (List.range bpp).map (fun c => bufByte m b ((y * w + x) * bpp + c))

/-- `Px16(base, i)`: RGB565 pixel number `i` (R57). -/
def px16 (cfg : Config) (m : Memory) (base i : Nat) : Rgb565 :=
  match cfg.byteOrder with
  | .little => Memory.read m (base + 2 * i + 1) ++ Memory.read m (base + 2 * i)
  | .big => Memory.read m (base + 2 * i) ++ Memory.read m (base + 2 * i + 1)

/-- The two bytes `PutPx16` writes, in increasing address order (R57). -/
def px16Bytes (cfg : Config) (c : Rgb565) : Pixel :=
  match cfg.byteOrder with
  | .little => [c.extractLsb' 0 8, c.extractLsb' 8 8]
  | .big => [c.extractLsb' 8 8, c.extractLsb' 0 8]

/-- `c[15:11]` (R91, R141). -/
def hi565 (c : Rgb565) : BitVec 5 := c.extractLsb' 11 5

/-- `c[10:5]` (R91, R141). -/
def mid565 (c : Rgb565) : BitVec 6 := c.extractLsb' 5 6

/-- `c[4:0]` (R91, R141). -/
def lo565 (c : Rgb565) : BitVec 5 := c.extractLsb' 0 5

/-- `Pack565(hi, mid, lo)` (R141). -/
def pack565 (hi mid lo : Nat) : Rgb565 := BitVec.ofNat 16 (hi <<< 11 ||| mid <<< 5 ||| lo)

/-- Byte number `o` of a frame `w` pixels wide whose pixel at (`x`, `y`) is `px x y` (R12). -/
def frameByte (bpp w : Nat) (px : Nat → Nat → Pixel) (o : Nat) : Byte :=
  (px (o / bpp % w) (o / bpp / w)).getD (o % bpp) 0

/-- A canvas: the image of `iw` by `ih` pixels `px` with its upper-left pixel at (`ox`, `oy`), and zero
bytes around it (R184, R226, R241). -/
def canvasPx (bpp ox oy iw ih : Nat) (px : Nat → Nat → Pixel) (x y : Nat) : Pixel :=
  if ox ≤ x ∧ x < ox + iw ∧ oy ≤ y ∧ y < oy + ih then px (x - ox) (y - oy) else List.replicate bpp 0

end Sys2Proof.Machine
end

