-- ==== Sys2Proof/Machine/Bilinear.lean ====
section
/-! DEFINITION. 44_bilinear: BILINEAR. The rational numbers of R222 and R223 are held exactly, as natural
numerators over the stated denominators. -/

namespace Sys2Proof.Machine

/-- The scaled image size `(scw, sch)` (R221). -/
def scaledSize (sw sh dw dh : Nat) : Nat × Nat :=
  if sw * dh > dw * sh then (dw, dw * sh / sw) else (dh * sw / sh, dh)

/-- The clamped sample coordinate of output position `i` along a side of `size` source pixels scaled to
`scaled`, times `2 * scaled` (R222). The subtraction stops at 0, which is the lower clamp. -/
def sampleNum (i size scaled : Nat) : Nat :=
  min ((2 * i + 1) * size - scaled) ((size - 1) * (2 * scaled))

/-- `x0` (or `y0`): the floor of the sample coordinate (R222). -/
def sampleLow (i size scaled : Nat) : Nat := sampleNum i size scaled / (2 * scaled)

/-- `x1` (or `y1`): the next pixel, or the last one (R222). -/
def sampleHigh (i size scaled : Nat) : Nat := min (sampleLow i size scaled + 1) (size - 1)

/-- `tx` (or `ty`) times `2 * scaled`: the fraction of the sample coordinate (R222). -/
def sampleFrac (i size scaled : Nat) : Nat := sampleNum i size scaled % (2 * scaled)

/-- The numerator of `v` over the denominator `(2 * scw) * (2 * sch)` (R223). -/
def blendNum (c00 c10 c01 c11 x y sw sh scw sch : Nat) : Nat :=
  let dx := 2 * scw
  let dy := 2 * sch
  let tx := sampleFrac x sw scw
  let ty := sampleFrac y sh sch
  c00 * (dx - tx) * (dy - ty) + c10 * tx * (dy - ty) + c01 * (dx - tx) * ty + c11 * tx * ty

/-- The default `Interp` of R224: the exact value of R223, made an integer by `BILINEAR_ROUND`, and
clamped to the channel's `n` bits. -/
def interpExact (round : Rounding) : Interp := fun c00 c10 c01 c11 x y sw sh scw sch n =>
  let num := blendNum c00 c10 c01 c11 x y sw sh scw sch
  let den := 2 * scw * (2 * sch)
  let r :=
    match round with
    | .trunc => num / den
    | .nearest => (2 * num + den) / (2 * den)
  min r (2 ^ n - 1)

/-- The `Interp` of the implementation (R224). The channel value of every such function is clamped to the channel's
`n` bits before repacking (R220; log 8). -/
def interpOf (cfg : Config) : Interp := fun c00 c10 c01 c11 x y sw sh scw sch n =>
  match cfg.interp with
  | .exact => interpExact cfg.bilinearRound c00 c10 c01 c11 x y sw sh scw sch n
  | .other id => min (Config.freeInterp id c00 c10 c01 c11 x y sw sh scw sch n) (2 ^ n - 1)

/-- The pixel of the scaled image at (`x`, `y`): each channel interpolated over the four enclosing source
pixels (R223, R226). -/
def resampledPx (interp : Interp) (cfg : Config) (m : Memory) (src : Buf) (sw sh scw sch x y : Nat) :
    Rgb565 :=
  let x0 := sampleLow x sw scw
  let x1 := sampleHigh x sw scw
  let y0 := sampleLow y sh sch
  let y1 := sampleHigh y sh sch
  let p00 := px16 cfg m src.base (y0 * sw + x0)
  let p10 := px16 cfg m src.base (y0 * sw + x1)
  let p01 := px16 cfg m src.base (y1 * sw + x0)
  let p11 := px16 cfg m src.base (y1 * sw + x1)
  pack565
    (interp (hi565 p00).toNat (hi565 p10).toNat (hi565 p01).toNat (hi565 p11).toNat x y sw sh scw sch 5)
    (interp (mid565 p00).toNat (mid565 p10).toNat (mid565 p01).toNat (mid565 p11).toNat x y sw sh scw sch 6)
    (interp (lo565 p00).toNat (lo565 p10).toNat (lo565 p01).toNat (lo565 p11).toNat x y sw sh scw sch 5)

/-- Destination byte `o` of BILINEAR (R226): the scaled image centred in the canvas. -/
def bilinearByte (interp : Interp) (cfg : Config) (m : Memory) (src : Buf) (sw sh dw dh o : Nat) : Byte :=
  match scaledSize sw sh dw dh with
  | (scw, sch) =>
    frameByte 2 dw
      (canvasPx 2 ((dw - scw) / 2) ((dh - sch) / 2) scw sch
        (fun x y => px16Bytes cfg (resampledPx interp cfg m src sw sh scw sch x y))) o

/-- The preconditions of BILINEAR (R226). -/
abbrev BilinearPre (sw sh dw dh : Nat) : Prop := 1 ≤ sw ∧ 1 ≤ sh ∧ 1 ≤ dw ∧ 1 ≤ dh

/-- What START checks of BILINEAR (R226). -/
def jobBilinear (src dst : Buf) (sw sh dw dh : Nat) : Job :=
  { pre := decide (BilinearPre sw sh dw dh)
    reads := [⟨src, 2 * sw * sh⟩]
    write := some ⟨dst, 2 * dw * dh⟩ }

/-- BILINEAR (R226), with the implementation's `Interp` (R224; log 8). -/
def execBilinear (src dst : Buf) (sw sh dw dh : Nat) (s : State) : Host.Outcome State Fault Refusal :=
  runJob (jobBilinear src dst sw sh dw dh)
    (fun s => s.storeDst dst (2 * dw * dh)
      (bilinearByte (interpOf s.cfg) s.cfg s.mem src sw sh dw dh)) s

end Sys2Proof.Machine
end

