-- ==== Sys2Proof/Machine/AddressMapper.lean ====
section
/-! DEFINITION. 40_address_mapper: the function `MapAddr` and the command MAPADDR. -/

namespace Sys2Proof.Machine

/-- `matrixNumber` (R122). -/
def matrixNumber (x y width height : Nat) : Nat :=
  let matricesPerRow := width / 32
  let totalMatrices := matricesPerRow * (height / 32)
  totalMatrices - (y / 32 + 1) * matricesPerRow + x / 32

/-- `dotsPerLogicalRowPerMatrix` (R122). -/
def dotsPerRowPerMatrix (n : Nat) : Nat := 512 / n

/-- `dotsPerLogicalRow` (R122). -/
def dotsPerLogicalRow (width height n : Nat) : Nat := width * height / n / 2

/-- `MapAddr(x, y, width, height, n)` (R122). -/
def mapAddr (x y width height n : Nat) : Nat :=
  y % n * dotsPerLogicalRow width height n
    + matrixNumber x y width height * dotsPerRowPerMatrix n
    + x % dotsPerRowPerMatrix n

/-- The preconditions (a), (b) and (c) of R125, of every use of `MapAddr`. -/
abbrev PanelPre (width height n : Nat) : Prop :=
  (32 ≤ width ∧ width % 32 = 0) ∧ (32 ≤ height ∧ height % 32 = 0) ∧ (1 ≤ n ∧ 512 % n = 0)

/-- The preconditions of MAPADDR: R125 (a) to (d). -/
abbrev MapaddrPre (x y width height n : Nat) : Prop :=
  PanelPre width height n ∧ (x < width ∧ y < height)

/-- What START checks of MAPADDR: no buffer (R124). -/
def jobMapaddr (x y sw sh nlr : Nat) : Job :=
  { pre := decide (MapaddrPre x y sw sh nlr), reads := [], write := none }

/-- MAPADDR (R124). -/
def execMapaddr (x y sw sh nlr : Nat) (s : State) : Host.Outcome State Fault Refusal :=
  runJob (jobMapaddr x y sw sh nlr)
    (fun s => s.setResult (BitVec.ofNat 32 (mapAddr x y sw sh nlr))) s

end Sys2Proof.Machine
end

