-- ==== Sys2Proof/Machine/ColorCodec.lean ====
section
/-! DEFINITION. 41_color_codec: `Ch565`, `Ch3`, and the commands IDX2RGB24, SPLITPLANES, SPLITDOTS. -/

namespace Sys2Proof.Machine

/-! RGB565 channel extraction -/

/-- `Ch565(c, cm)`: the channel values (R, G, B) (R141). -/
def ch565 (c : Rgb565) (cm : ColorMatrix) : Nat × Nat × Nat :=
  match cm with
  | .rgb => ((hi565 c).toNat, (mid565 c).toNat, (lo565 c).toNat)
  | .rbg => ((hi565 c).toNat, (lo565 c).toNat, (mid565 c).toNat)

/-- The three bits of a channel field of `n` bits that feed a dot pair (R142): its low three, or its high
three. -/
def threeBits (sel : Ch3Select) (field : BitVec n) : BitVec 3 :=
  match sel with
  | .low3 => field.extractLsb' 0 3
  | .high3 => field.extractLsb' (n - 3) 3

/-- `Ch3(c, cm)`: the 3-bit values (r, g, b) (R142). -/
def ch3 (cfg : Config) (c : Rgb565) (cm : ColorMatrix) : BitVec 3 × BitVec 3 × BitVec 3 :=
  let h3 := threeBits cfg.ch3Select (hi565 c)
  let m3 := threeBits cfg.ch3Select (mid565 c)
  let l3 := threeBits cfg.ch3Select (lo565 c)
  match cm with
  | .rgb => (h3, m3, l3)
  | .rbg => (h3, l3, m3)

/-! IDX2RGB24 -/

/-- What START checks of IDX2RGB24: no precondition; source, palette and destination (R145). -/
def jobIdx2rgb24 (src pal dst : Buf) (count : Nat) : Job :=
  { pre := true, reads := [⟨src, count⟩, ⟨pal, 768⟩], write := some ⟨dst, 3 * count⟩ }

/-- Destination byte `3i + c` is byte `3p + c` of the palette, `p` the source byte `i` (R145). -/
def idx2rgb24Byte (m : Memory) (src pal : Buf) (o : Nat) : Byte :=
  bufByte m pal (3 * (bufByte m src (o / 3)).toNat + o % 3)

/-- IDX2RGB24 (R145). -/
def execIdx2rgb24 (src pal dst : Buf) (count : Nat) (s : State) : Host.Outcome State Fault Refusal :=
  runJob (jobIdx2rgb24 src pal dst count)
    (fun s => s.storeDst dst (3 * count) (idx2rgb24Byte s.mem src pal)) s

/-! SPLITPLANES -/

/-- The preconditions of SPLITPLANES (R150). -/
abbrev PlanesPre (cfg : Config) (w h bitlen : Nat) : Prop :=
  (8 ≤ w ∧ w % 8 = 0) ∧ 1 ≤ h ∧ (1 ≤ bitlen ∧ bitlen ≤ cfg.bitlenMax)

/-- The bytes of one plane, `P` (R93, R150). -/
def planeSize (w h : Nat) : Nat := w * h / 8

/-- What START checks of SPLITPLANES (R150). -/
def jobSplitplanes (cfg : Config) (src dst : Buf) (sw sh bitlen : Nat) : Job :=
  { pre := decide (PlanesPre cfg sw sh bitlen)
    reads := [⟨src, sw * sh⟩]
    write := some ⟨dst, bitlen * planeSize sw sh⟩ }

/-- The byte of run `k` in plane `i`: bit `v` is bit `i` of pixel `8k + v` (R93, R150). -/
def planeByte (m : Memory) (src : Buf) (i k : Nat) : Byte :=
  (List.range 8).foldl
    (fun byte v => byte ||| (BitVec.ofBool ((bufByte m src (8 * k + v)).getLsbD i)).setWidth 8 <<< v) 0

/-- SPLITPLANES (R150). -/
def execSplitplanes (src dst : Buf) (sw sh bitlen : Nat) (s : State) :
    Host.Outcome State Fault Refusal :=
  runJob (jobSplitplanes s.cfg src dst sw sh bitlen)
    (fun s => s.storeDst dst (bitlen * planeSize sw sh)
      (fun o => planeByte s.mem src (o / planeSize sw sh) (o % planeSize sw sh))) s

/-! SPLITDOTS -/

/-- The bytes of one sub-frame, `S` (R96, R156). -/
def subFrameSize (w h : Nat) : Nat := w * h / 2

/-- What START checks of SPLITDOTS (R156). -/
def jobSplitdots (src dst : Buf) (sw sh nlr : Nat) : Job :=
  { pre := decide (PanelPre sw sh nlr)
    reads := [⟨src, 2 * sw * sh⟩]
    write := some ⟨dst, 3 * subFrameSize sw sh⟩ }

/-- Bit `i` of a 3-bit value, placed at bit `n` of a byte. -/
def bitAt (v : BitVec 3) (i n : Nat) : Byte := (BitVec.ofBool (v.getLsbD i)).setWidth 8 <<< n

/-- The dot-pair byte of sub-frame `k` for an upper and a lower pixel (R95, R156). -/
def dotByte (cfg : Config) (cm : ColorMatrix) (upper lower : Rgb565) (k : Nat) : Byte :=
  match ch3 cfg upper cm, ch3 cfg lower cm with
  | (r0, g0, b0), (r1, g1, b1) =>
    bitAt r0 k 5 ||| bitAt g0 k 4 ||| bitAt b0 k 3 ||| bitAt r1 k 2 ||| bitAt g1 k 1 ||| bitAt b1 k 0

/-- The byte the pair whose upper pixel is (`x`, `y`) gives sub-frame `k` (R156). -/
def pairByte (cfg : Config) (m : Memory) (src : Buf) (w : Nat) (cm : ColorMatrix) (k x y : Nat) : Byte :=
  dotByte cfg cm (px16 cfg m src.base (y * w + x)) (px16 cfg m src.base ((y + 16) * w + x)) k

/-- The upper pixels whose pair maps to index `idx` (R156): rows with `y mod 32 < 16`, `MapAddr = idx`.
Only the rows of the index's own logical row can map to it, so only those are searched. -/
def pairsAt (w h n idx : Nat) : List (Nat × Nat) :=
  ((List.range h).filter (fun y => y % 32 < 16 ∧ y % n = idx / dotsPerLogicalRow w h n)).flatMap
    (fun y => ((List.range w).filter (fun x => mapAddr x y w h n = idx)).map (fun x => (x, y)))

/-- The different bytes that compete for an offset of sub-frame `k` (R158). -/
def candidates (cfg : Config) (m : Memory) (src : Buf) (w h n : Nat) (cm : ColorMatrix) (k idx : Nat) :
    List Byte :=
  ((pairsAt w h n idx).map (fun p => pairByte cfg m src w cm k p.1 p.2)).dedup

/-- What an offset holds afterwards: its old byte where no pair maps (R157), the one byte where all pairs
agree, and otherwise one of the competing bytes, which one being a free value (R158; log 6). -/
def settle (use offset : Nat) (old : Byte) : List Byte → Byte
  | [] => old
  | [b] => b
  | bs => bs.getD (Config.freePick use offset % bs.length) 0

/-- The byte at offset `o = k * S + idx` of the destination (R156 to R158). -/
def splitdotsByte (cfg : Config) (use : Nat) (m : Memory) (src dst : Buf) (w h n : Nat) (cm : ColorMatrix)
    (o : Nat) : Byte :=
  settle use o (bufByte m dst o)
    (candidates cfg m src w h n cm (o / subFrameSize w h) (o % subFrameSize w h))

/-- SPLITDOTS (R156). -/
def execSplitdots (src dst : Buf) (sw sh nlr : Nat) (cm : ColorMatrix) (s : State) :
    Host.Outcome State Fault Refusal :=
  runJob (jobSplitdots src dst sw sh nlr)
    (fun s => (s.storeDst dst (3 * subFrameSize sw sh)
      (splitdotsByte s.cfg s.freeCount s.mem src dst sw sh nlr cm)).bumpFree) s

end Sys2Proof.Machine
end

