-- ==== Sys2Proof/Machine/Compositor.lean ====
section
/-! DEFINITION. 45_compositor: CENTER_IDX, CENTER. -/

namespace Sys2Proof.Machine

/-- The preconditions of `Center` (R241). -/
abbrev CenterPre (sw sh dw dh : Nat) : Prop := 1 ≤ sw ∧ 1 ≤ sh ∧ 1 ≤ dw ∧ 1 ≤ dh ∧ sw ≤ dw ∧ sh ≤ dh

/-- What START checks of a Center command with preconditions `pre` (R241). -/
def centerJob (pre : Bool) (bpp : Nat) (src dst : Buf) (sw sh dw dh : Nat) : Job :=
  { pre := pre, reads := [⟨src, sw * sh * bpp⟩], write := some ⟨dst, dw * dh * bpp⟩ }

/-- Destination byte `o` of `Center` (R241): the source frame centred in the canvas. -/
def centerByte (m : Memory) (src : Buf) (bpp sw sh dw dh o : Nat) : Byte :=
  frameByte bpp dw (canvasPx bpp ((dw - sw) / 2) ((dh - sh) / 2) sw sh (framePx m src bpp sw)) o

/-- `Center(bpp, sw, sh, dw, dh)`: what it writes (R241). -/
def centerFrame (bpp : Nat) (src dst : Buf) (sw sh dw dh : Nat) (s : State) : State :=
  s.storeDst dst (dw * dh * bpp) (centerByte s.mem src bpp sw sh dw dh)

/-- What START checks of CENTER_IDX (R244). -/
def jobCenterIdx (src dst : Buf) (sw sh dw dh : Nat) : Job :=
  centerJob (decide (CenterPre sw sh dw dh)) 1 src dst sw sh dw dh

/-- CENTER_IDX (R244). -/
def execCenterIdx (src dst : Buf) (sw sh dw dh : Nat) (s : State) : Host.Outcome State Fault Refusal :=
  runJob (jobCenterIdx src dst sw sh dw dh) (centerFrame 1 src dst sw sh dw dh) s

/-- What START checks of CENTER: BPP first (R245). -/
def jobCenter (cfg : Config) (src dst : Buf) (sw sh dw dh bpp : Nat) : Job :=
  centerJob (decide (bpp ∈ cfg.bppSet ∧ CenterPre sw sh dw dh)) bpp src dst sw sh dw dh

/-- CENTER (R245). -/
def execCenter (src dst : Buf) (sw sh dw dh bpp : Nat) (s : State) : Host.Outcome State Fault Refusal :=
  runJob (jobCenter s.cfg src dst sw sh dw dh bpp) (centerFrame bpp src dst sw sh dw dh) s

end Sys2Proof.Machine
end

