-- ==== Sys2Proof/Machine/ScaleDown.lean ====
section
/-! DEFINITION. 42_scaledown: SCALEDOWN_IDX, SCALEDOWN_PUP, SCALEDOWN. -/

namespace Sys2Proof.Machine

/-- The quadrant of a block (R182). -/
inductive Quadrant where
  | ul
  | ur
  | ll
  | lr
  deriving DecidableEq, Repr

/-- `Pick(ul, ur, ll, lr, q)` (R181). -/
def pick (ul ur ll lr : Pixel) (q : Quadrant) : Pixel :=
  if ul = ur ∨ ul = ll ∨ ul = lr then ul
  else if ur = ll ∨ ur = lr then ur
  else if ll = lr then ll
  else
    match q with
    | .ul => ul
    | .ur => ur
    | .ll => ll
    | .lr => lr

/-- The quadrant of the block whose upper-left pixel is (`x`, `y`) (R182). -/
def quadrantOf (sw sh x y : Nat) : Quadrant :=
  if y < sh / 2 then (if x < sw / 2 then .ul else .ur) else (if x < sw / 2 then .ll else .lr)

/-- The pixel picked from the block in block column `col` and block row `row` of the source (R184). -/
def blockPx (m : Memory) (src : Buf) (bpp sw sh col row : Nat) : Pixel :=
  let x := 2 * col
  let y := 2 * row
  pick (framePx m src bpp sw x y) (framePx m src bpp sw (x + 1) y)
    (framePx m src bpp sw x (y + 1)) (framePx m src bpp sw (x + 1) (y + 1)) (quadrantOf sw sh x y)

/-- The preconditions of `ScaleDown` (R184). -/
abbrev ScaleDownPre (sw sh dw dh : Nat) : Prop :=
  2 ≤ sw ∧ sw % 2 = 0 ∧ 2 ≤ sh ∧ sh % 2 = 0 ∧ 1 ≤ dw ∧ 1 ≤ dh ∧ sw / 2 ≤ dw ∧ sh / 2 ≤ dh

/-- What START checks of a ScaleDown command with preconditions `pre` (R184). -/
def scaleDownJob (pre : Bool) (bpp : Nat) (src dst : Buf) (sw sh dw dh : Nat) : Job :=
  { pre := pre, reads := [⟨src, sw * sh * bpp⟩], write := some ⟨dst, dw * dh * bpp⟩ }

/-- Destination byte `o` of `ScaleDown` (R184): the picked pixels centred in the canvas. -/
def scaleDownByte (m : Memory) (src : Buf) (bpp sw sh dw dh o : Nat) : Byte :=
  frameByte bpp dw
    (canvasPx bpp ((dw - sw / 2) / 2) ((dh - sh / 2) / 2) (sw / 2) (sh / 2) (blockPx m src bpp sw sh)) o

/-- `ScaleDown(bpp, sw, sh, dw, dh)`: what it writes (R184). -/
def scaleDown (bpp : Nat) (src dst : Buf) (sw sh dw dh : Nat) (s : State) : State :=
  s.storeDst dst (dw * dh * bpp) (scaleDownByte s.mem src bpp sw sh dw dh)

/-- The narrow variant's extra precondition, checked first (R186). -/
abbrev NarrowPre (cfg : Config) (sw sh dw dh : Nat) : Prop :=
  sw ≤ cfg.narrowMax ∧ sh ≤ cfg.narrowMax ∧ dw ≤ cfg.narrowMax ∧ dh ≤ cfg.narrowMax

/-- What START checks of SCALEDOWN_IDX (R186). -/
def jobScaledownIdx (cfg : Config) (src dst : Buf) (sw sh dw dh : Nat) : Job :=
  scaleDownJob (decide (NarrowPre cfg sw sh dw dh ∧ ScaleDownPre sw sh dw dh)) 1 src dst sw sh dw dh

/-- SCALEDOWN_IDX (R186). -/
def execScaledownIdx (src dst : Buf) (sw sh dw dh : Nat) (s : State) : Host.Outcome State Fault Refusal :=
  runJob (jobScaledownIdx s.cfg src dst sw sh dw dh) (scaleDown 1 src dst sw sh dw dh) s

/-- What START checks of SCALEDOWN_PUP (R187). -/
def jobScaledownPup (src dst : Buf) (sw sh dw dh : Nat) : Job :=
  scaleDownJob (decide (ScaleDownPre sw sh dw dh)) 1 src dst sw sh dw dh

/-- SCALEDOWN_PUP (R187). -/
def execScaledownPup (src dst : Buf) (sw sh dw dh : Nat) (s : State) : Host.Outcome State Fault Refusal :=
  runJob (jobScaledownPup src dst sw sh dw dh) (scaleDown 1 src dst sw sh dw dh) s

/-- What START checks of SCALEDOWN: BPP first (R188). -/
def jobScaledown (cfg : Config) (src dst : Buf) (sw sh dw dh bpp : Nat) : Job :=
  scaleDownJob (decide (bpp ∈ cfg.bppSet ∧ ScaleDownPre sw sh dw dh)) bpp src dst sw sh dw dh

/-- SCALEDOWN (R188). -/
def execScaledown (src dst : Buf) (sw sh dw dh bpp : Nat) (s : State) :
    Host.Outcome State Fault Refusal :=
  runJob (jobScaledown s.cfg src dst sw sh dw dh bpp) (scaleDown bpp src dst sw sh dw dh) s

end Sys2Proof.Machine
end

