-- ==== Sys2Proof/Machine/ScaleUp.lean ====
section
/-! DEFINITION. 43_scaleup: SCALEUP_IDX, SCALEUP. -/

namespace Sys2Proof.Machine

/-- The corner of a 2×2 output block (R202): `right` and `lower` say which; `E0` is neither. -/
def cornerPx (b d e f h : Pixel) (right lower : Bool) : Pixel :=
  if b ≠ h ∧ d ≠ f then
    match right, lower with
    | false, false => if d = b then d else e
    | true, false => if b = f then f else e
    | false, true => if d = h then d else e
    | true, true => if h = f then f else e
  else e

/-- The output pixel (`X`, `Y`) of `ScaleUp` (R201 to R203): the corner of source pixel (`X/2`, `Y/2`). A
neighbour beyond an edge is the pixel at that edge. -/
def scaleUpPx (m : Memory) (src : Buf) (bpp sw sh X Y : Nat) : Pixel :=
  let x := X / 2
  let y := Y / 2
  let px := framePx m src bpp sw
  cornerPx (px x (y - 1)) (px (x - 1) y) (px x y) (px (min (x + 1) (sw - 1)) y)
    (px x (min (y + 1) (sh - 1))) (X % 2 = 1) (Y % 2 = 1)

/-- The preconditions of `ScaleUp` (R203). -/
abbrev ScaleUpPre (sw sh : Nat) : Prop := 1 ≤ sw ∧ 1 ≤ sh

/-- What START checks of a ScaleUp command with preconditions `pre` (R203). -/
def scaleUpJob (pre : Bool) (bpp : Nat) (src dst : Buf) (sw sh : Nat) : Job :=
  { pre := pre, reads := [⟨src, sw * sh * bpp⟩], write := some ⟨dst, 4 * sw * sh * bpp⟩ }

/-- `ScaleUp(bpp, sw, sh)`: what it writes (R203). -/
def scaleUp (bpp : Nat) (src dst : Buf) (sw sh : Nat) (s : State) : State :=
  s.storeDst dst (4 * sw * sh * bpp) (frameByte bpp (2 * sw) (scaleUpPx s.mem src bpp sw sh))

/-- What START checks of SCALEUP_IDX (R205). -/
def jobScaleupIdx (src dst : Buf) (sw sh : Nat) : Job :=
  scaleUpJob (decide (ScaleUpPre sw sh)) 1 src dst sw sh

/-- SCALEUP_IDX (R205). -/
def execScaleupIdx (src dst : Buf) (sw sh : Nat) (s : State) : Host.Outcome State Fault Refusal :=
  runJob (jobScaleupIdx src dst sw sh) (scaleUp 1 src dst sw sh) s

/-- What START checks of SCALEUP: BPP first (R206). -/
def jobScaleup (cfg : Config) (src dst : Buf) (sw sh bpp : Nat) : Job :=
  scaleUpJob (decide (bpp ∈ cfg.bppSet ∧ ScaleUpPre sw sh)) bpp src dst sw sh

/-- SCALEUP (R206). -/
def execScaleup (src dst : Buf) (sw sh bpp : Nat) (s : State) : Host.Outcome State Fault Refusal :=
  runJob (jobScaleup s.cfg src dst sw sh bpp) (scaleUp bpp src dst sw sh) s

end Sys2Proof.Machine
end

