-- ==== Sys2Proof/Machine/Dispatch.lean ====
section
/-! DEFINITION. One arm per command (30_encoding R84), each a direct call of its meaning. -/

namespace Sys2Proof.Machine

def exec (i : Instr) (s : State) : Host.Outcome State Fault Refusal :=
  match i with
  | .mapaddr x y sw sh nlr => Sys2Proof.Machine.execMapaddr x y sw sh nlr s
  | .idx2rgb24 src pal dst count => Sys2Proof.Machine.execIdx2rgb24 src pal dst count s
  | .splitplanes src dst sw sh bitlen => Sys2Proof.Machine.execSplitplanes src dst sw sh bitlen s
  | .splitdots src dst sw sh nlr cm => Sys2Proof.Machine.execSplitdots src dst sw sh nlr cm s
  | .scaledownIdx src dst sw sh dw dh => Sys2Proof.Machine.execScaledownIdx src dst sw sh dw dh s
  | .scaledownPup src dst sw sh dw dh => Sys2Proof.Machine.execScaledownPup src dst sw sh dw dh s
  | .scaledown src dst sw sh dw dh bpp => Sys2Proof.Machine.execScaledown src dst sw sh dw dh bpp s
  | .scaleupIdx src dst sw sh => Sys2Proof.Machine.execScaleupIdx src dst sw sh s
  | .scaleup src dst sw sh bpp => Sys2Proof.Machine.execScaleup src dst sw sh bpp s
  | .bilinear src dst sw sh dw dh => Sys2Proof.Machine.execBilinear src dst sw sh dw dh s
  | .centerIdx src dst sw sh dw dh => Sys2Proof.Machine.execCenterIdx src dst sw sh dw dh s
  | .center src dst sw sh dw dh bpp => Sys2Proof.Machine.execCenter src dst sw sh dw dh bpp s

end Sys2Proof.Machine
end

