-- ==== Sys2Proof/Machine/HostActions.lean ====
section
/-! DEFINITION. The host's actions on the block (10_state R26, R27, R30) and on its memory
(70_reset_and_hazards R294 to R296), and the turn of the block. -/

namespace Sys2Proof.Machine

/-- What START checks of a command. -/
def jobOf (cfg : Config) : Instr → Job
  | .mapaddr x y sw sh nlr => jobMapaddr x y sw sh nlr
  | .idx2rgb24 src pal dst count => jobIdx2rgb24 src pal dst count
  | .splitplanes src dst sw sh bitlen => jobSplitplanes cfg src dst sw sh bitlen
  | .splitdots src dst sw sh nlr _ => jobSplitdots src dst sw sh nlr
  | .scaledownIdx src dst sw sh dw dh => jobScaledownIdx cfg src dst sw sh dw dh
  | .scaledownPup src dst sw sh dw dh => jobScaledownPup src dst sw sh dw dh
  | .scaledown src dst sw sh dw dh bpp => jobScaledown cfg src dst sw sh dw dh bpp
  | .scaleupIdx src dst sw sh => jobScaleupIdx src dst sw sh
  | .scaleup src dst sw sh bpp => jobScaleup cfg src dst sw sh bpp
  | .bilinear src dst sw sh dw dh => jobBilinear src dst sw sh dw dh
  | .centerIdx src dst sw sh dw dh => jobCenterIdx src dst sw sh dw dh
  | .center src dst sw sh dw dh bpp => jobCenter cfg src dst sw sh dw dh bpp

/-- The command the block takes up: the descriptor as it stood at START (R27, R64; nothing can write it
while BUSY, R296; log 20). -/
def fetch (s : State) : Except Reject Instr := decodeDesc s.cfg s.desc

/-- The job of the command OP selects, also when a reserved bit will have it refused; none for an unassigned
OP, which has no buffers (log 11). -/
def selectedJob (s : State) : Option Job := (selectInstr s.cfg s.desc).map (jobOf s.cfg)

/-- The extents of the command the descriptor selects (R294). -/
def commandExtents (s : State) : List Extent :=
  match selectedJob s with
  | some j => j.extents
  | none => []

/-- The extents of the command that runs: while BUSY nobody but the block may touch them (R61, R294). -/
def runningExtents (s : State) : List Extent := if s.status = .busy then commandExtents s else []

/-- The destination of the command that runs (R30). -/
def runningDst (s : State) : Option Use :=
  if s.status = .busy then (selectedJob s).bind Job.write else none

/-! Descriptor fields -/

/-- The width of a field in bits (R8, R21, R81). -/
def fieldWidth (cfg : Config) : Field → Nat
  | .op => 8
  | .rsvW0 => 24
  | .srcBase | .dstBase | .palBase => cfg.addrWidth
  | .srcLen | .dstLen | .palLen | .count => 32
  | .srcW | .srcH | .dstW | .dstH | .nlr | .x | .y => cfg.dimWidth
  | .bpp | .bitlen | .rsvW9hi => 4
  | .cm => 1
  | .rsvW9lo => 3

/-- The bits of the descriptor that hold a field, with zeros above them (R81). -/
def fieldBits (d : Desc) : Field → Word
  | .op => d.op.setWidth 32
  | .rsvW0 => d.rsvW0.setWidth 32
  | .srcBase => d.srcBase
  | .srcLen => d.srcLen
  | .dstBase => d.dstBase
  | .dstLen => d.dstLen
  | .palBase => d.palBase
  | .palLen => d.palLen
  | .srcW => d.srcW.setWidth 32
  | .srcH => d.srcH.setWidth 32
  | .dstW => d.dstW.setWidth 32
  | .dstH => d.dstH.setWidth 32
  | .bpp => d.bpp.setWidth 32
  | .cm => d.cm.setWidth 32
  | .rsvW9lo => d.rsvW9lo.setWidth 32
  | .bitlen => d.bitlen.setWidth 32
  | .rsvW9hi => d.rsvW9hi.setWidth 32
  | .nlr => d.nlr.setWidth 32
  | .count => d.count
  | .x => d.x.setWidth 32
  | .y => d.y.setWidth 32

/-- The value of a field, with zeros above it (R21, R82). -/
def readField (cfg : Config) (d : Desc) (f : Field) : Word :=
  BitVec.ofNat 32 ((fieldBits d f).toNat % 2 ^ fieldWidth cfg f)

/-- The descriptor with one field set. -/
def writeField (d : Desc) (v : Nat) : Field → Desc
  | .op => { d with op := BitVec.ofNat 8 v }
  | .rsvW0 => { d with rsvW0 := BitVec.ofNat 24 v }
  | .srcBase => { d with srcBase := BitVec.ofNat 32 v }
  | .srcLen => { d with srcLen := BitVec.ofNat 32 v }
  | .dstBase => { d with dstBase := BitVec.ofNat 32 v }
  | .dstLen => { d with dstLen := BitVec.ofNat 32 v }
  | .palBase => { d with palBase := BitVec.ofNat 32 v }
  | .palLen => { d with palLen := BitVec.ofNat 32 v }
  | .srcW => { d with srcW := BitVec.ofNat 16 v }
  | .srcH => { d with srcH := BitVec.ofNat 16 v }
  | .dstW => { d with dstW := BitVec.ofNat 16 v }
  | .dstH => { d with dstH := BitVec.ofNat 16 v }
  | .bpp => { d with bpp := BitVec.ofNat 4 v }
  | .cm => { d with cm := BitVec.ofNat 1 v }
  | .rsvW9lo => { d with rsvW9lo := BitVec.ofNat 3 v }
  | .bitlen => { d with bitlen := BitVec.ofNat 4 v }
  | .rsvW9hi => { d with rsvW9hi := BitVec.ofNat 4 v }
  | .nlr => { d with nlr := BitVec.ofNat 16 v }
  | .count => { d with count := BitVec.ofNat 32 v }
  | .x => { d with x := BitVec.ofNat 16 v }
  | .y => { d with y := BitVec.ofNat 16 v }

/-- The fields R84 lists for a command, beside OP. -/
def operandFields : Instr → List Field
  | .mapaddr .. => [.x, .y, .srcW, .srcH, .nlr]
  | .idx2rgb24 .. => [.srcBase, .srcLen, .palBase, .palLen, .dstBase, .dstLen, .count]
  | .splitplanes .. => [.srcBase, .srcLen, .dstBase, .dstLen, .srcW, .srcH, .bitlen]
  | .splitdots .. => [.srcBase, .srcLen, .dstBase, .dstLen, .srcW, .srcH, .nlr, .cm]
  | .scaledownIdx .. => [.srcBase, .srcLen, .dstBase, .dstLen, .srcW, .srcH, .dstW, .dstH]
  | .scaledownPup .. => [.srcBase, .srcLen, .dstBase, .dstLen, .srcW, .srcH, .dstW, .dstH]
  | .scaledown .. => [.srcBase, .srcLen, .dstBase, .dstLen, .srcW, .srcH, .dstW, .dstH, .bpp]
  | .scaleupIdx .. => [.srcBase, .srcLen, .dstBase, .dstLen, .srcW, .srcH]
  | .scaleup .. => [.srcBase, .srcLen, .dstBase, .dstLen, .srcW, .srcH, .bpp]
  | .bilinear .. => [.srcBase, .srcLen, .dstBase, .dstLen, .srcW, .srcH, .dstW, .dstH]
  | .centerIdx .. => [.srcBase, .srcLen, .dstBase, .dstLen, .srcW, .srcH, .dstW, .dstH]
  | .center .. => [.srcBase, .srcLen, .dstBase, .dstLen, .srcW, .srcH, .dstW, .dstH, .bpp]

/-- What a conforming host has written before a START (R291 (a)): OP and the fields of its command; for an unassigned
OP, which uses nothing else, OP alone (log 25). -/
def neededFields (s : State) : List Field :=
  .op :: ((selectInstr s.cfg s.desc).map operandFields).getD []

/-! The five actions of R26 -/

/-- Field `f` is set to `v`, and has been written. -/
def State.setField (s : State) (f : Field) (v : Nat) : State :=
  { s with
    desc := writeField s.desc v f
    written := if f ∈ s.written then s.written else f :: s.written }

/-- `WRITE(field, value)`: not while BUSY (R26, R296). A value the field cannot hold leaves a free value in it
(log 13). -/
def hostWrite (f : Field) (v : Nat) (s : State) : Host.Outcome State Fault Refusal :=
  if s.status = .busy then .refused .writeWhileBusy
  else if v < 2 ^ fieldWidth s.cfg f then .next (s.setField f v)
  else .next (s.setField f ((Config.freeField s.freeCount).toNat % 2 ^ fieldWidth s.cfg f)).bumpFree

/-- `START` (R27): no effect in FAULT, illegal in BUSY; otherwise BUSY with CAUSE 0, and the command's
extents are the block's (R294). A field the host has not written has the value it holds (log 25). -/
def hostStart (s : State) : Host.Outcome State Fault Refusal :=
  match s.status with
  | .fault => .next s
  | .busy => .refused .startWhileBusy
  | .idle | .done => .next { s with status := .busy, cause := 0, lent := commandExtents s ++ s.lent }

/-- `CLEAR` (R26): DONE or FAULT to IDLE; no effect in IDLE, illegal in BUSY. -/
def hostClear (s : State) : Host.Outcome State Fault Refusal :=
  match s.status with
  | .idle => .next s
  | .busy => .refused .clearWhileBusy
  | .done | .fault => .next s.clearFault

/-- The value of a register, with zeros above it (R26). -/
def readReg (s : State) : Reg → Word
  | .status => (statusCode s.status).setWidth 32
  | .cause => s.cause.setWidth 32
  | .result => s.result
  | .field f => readField s.cfg s.desc f

/-- The READ is a read of STATUS that shows DONE or FAULT: with it the host has its extents back (R295). -/
abbrev endSeen (r : Reg) (s : State) : Prop := r = .status ∧ (s.status = .done ∨ s.status = .fault)

/-- `READ(register)` (R26): while BUSY only STATUS (R296; log 12). -/
def hostRead (r : Reg) (s : State) : Host.Outcome State Fault Refusal :=
  if s.status = .busy ∧ r ≠ .status then .refused .readWhileBusy
  else .next { s with readData := readReg s r, lent := if endSeen r s then [] else s.lent }

/-- The free descriptor after a RESET action (R30, U21; log 3). -/
def freeDesc (use : Nat) : Desc :=
  match descOfWords ((List.range 12).map (Config.freeWord use)) with
  | some d => d
  | none => zeroDesc

/-- Memory after a RESET (R30): the destination extent of a running command, as far as it lies in the address
space, is unspecified (log 4); the rest is unchanged. -/
def resetMemory (s : State) : Memory :=
  match runningDst s with
  | some u =>
    Memory.store s.mem u.buf.base (min u.need (2 ^ s.cfg.aw - u.buf.base))
      (fun o => Config.freeByte s.freeCount (u.buf.base + o))
  | none => s.mem

/-- `RESET` (R30): IDLE and CAUSE 0; RESULT and the descriptor unspecified, and no field written. -/
def hostReset (s : State) : Host.Outcome State Fault Refusal :=
  .next
    { s with
      desc := freeDesc s.freeCount
      written := []
      status := .idle
      cause := 0
      result := Config.freeWord s.freeCount 12
      mem := resetMemory s
      lent := []
      freeCount := s.freeCount + 1 }

/-! The host's accesses to its memory (R294, R295) -/

/-- The host may not store to address `a`: it lies in an extent of the running command, or of one whose end the
host has not seen (R294, R295). -/
abbrev storeForbidden (s : State) (a : Nat) : Prop := ∃ e ∈ runningExtents s ++ s.lent, e.covers a

/-- The host may not load from address `a`: it lies in an extent of the running command (R61, R294), or in the
destination of one whose end the host has not seen (R295). -/
abbrev loadForbidden (s : State) (a : Nat) : Prop :=
  (∃ e ∈ runningExtents s, e.covers a) ∨ ∃ e ∈ s.lent, e.isDst = true ∧ e.covers a

/-- The host stores a byte. -/
def hostMemWrite (a : Nat) (b : Byte) (s : State) : Host.Outcome State Fault Refusal :=
  if 2 ^ s.cfg.aw ≤ a then .fault (.outsideAddressSpace a)
  else if storeForbidden s a then .refused (.bufferLent a)
  else .next { s with mem := Memory.store s.mem a 1 (fun _ => b) }

/-- The host loads a byte. -/
def hostMemRead (a : Nat) (s : State) : Host.Outcome State Fault Refusal :=
  if 2 ^ s.cfg.aw ≤ a then .fault (.outsideAddressSpace a)
  else if loadForbidden s a then .refused (.bufferLent a)
  else .next { s with readData := (Memory.read s.mem a).setWidth 32 }

/-! Turns -/

/-- The turn of the block: while BUSY it runs its command to the end (R5, R27), or faults when the
descriptor selects none (R85, R86); otherwise it waits for START (R5, R290). -/
def blockTurn (s : State) : Host.Outcome State Fault Refusal :=
  match s.status with
  | .busy =>
    match fetch s with
    | .ok i => exec i s
    | .error r => .next (s.takeFault (rejectCause r))
  | .idle | .done | .fault => .next s

/-- One action of the host. -/
def hostTurn (a : HostAction) (s : State) : Host.Outcome State Fault Refusal :=
  match a with
  | .wait => blockTurn s
  | .write f v => hostWrite f v s
  | .start => hostStart s
  | .clear => hostClear s
  | .read r => hostRead r s
  | .reset => hostReset s
  | .memWrite a b => hostMemWrite a b s
  | .memRead a => hostMemRead a s

end Sys2Proof.Machine
end

