-- ==== Sys2Proof/Machine/Step.lean ====
section
/-! DEFINITION. One step: the host's next action, or the turn of the block when the host has none (log 10).
And a descriptor placed where the next step takes its command up. -/

namespace Sys2Proof.Machine

/-- One step of the platform. -/
def step (s : State) : Host.Outcome State Fault Refusal :=
  match s.pending with
  | [] => blockTurn s
  | a :: rest => hostTurn a { s with pending := rest }

/-- `s` as a START leaves it (R27) with the descriptor of those bits, and no host action before the block's
turn: the very next step runs the command (log 10). -/
def State.withFetchWord (s : State) (nbits w : Nat) : State :=
  { s with desc := tableDesc nbits w, status := .busy, cause := 0, pending := [] }

end Sys2Proof.Machine
end

