-- ==== Sys2Proof/Safety.lean ====
section
/-! DEFINITION. What counts as a good state, a legal host action and a clean outcome, in the terms the
claims use. -/

namespace Sys2Proof.Machine

/-- The outcome is a next state: neither a fault nor a refusal. -/
def Continues (o : Host.Outcome State Fault Refusal) : Prop := ∃ t, o = .next t

/-- CAUSE holds 0 whenever STATE is not FAULT, and one of the four fault codes when it is (R24, R261). -/
def CauseOk (s : State) : Prop :=
  (s.status ≠ .fault → s.cause = 0) ∧ (s.status = .fault → ∃ c : Cause, s.cause = causeCode c)

/-- The invariant of the machine: memory in its canonical form and inside the address space (R50), CAUSE as R24
says, and no field twice among those written. -/
def MachineInv (s : State) : Prop :=
  Memory.wf s.mem ∧ Memory.inSpace s.cfg s.mem ∧ CauseOk s ∧ s.written.Nodup

/-- What a conforming host may do in a state (R26, R291 to R296): nothing but READ STATUS and RESET while BUSY,
START only with every needed field written (R291 (a)), and keep its hands off memory the block has. -/
def LegalAction (s : State) : HostAction → Prop
  | .wait => True
  | .write _ _ => s.status ≠ .busy
  | .start => s.status ≠ .busy ∧ (s.status ≠ .fault → ∀ f ∈ neededFields s, f ∈ s.written)
  | .clear => s.status ≠ .busy
  | .read r => s.status = .busy → r = .status
  | .reset => True
  | .memWrite a _ => a < 2 ^ s.cfg.aw ∧ ¬ storeForbidden s a
  | .memRead a => a < 2 ^ s.cfg.aw ∧ ¬ loadForbidden s a

end Sys2Proof.Machine
end

