-- ==== Sys2Proof/Certificates/Slice0/Obligations.lean ====
section
/-! DEFINITION. The statements for the provers, and the words they use: the preconditions, buffers and
placements of the commands written out from the rules of spec/; where a rule names a parameter of R8, with
the parameter. -/

namespace Sys2Proof.Claims

open Sys2Proof.Machine

/-! Buffers -/

/-- The buffer lies in the address space and has the `need` bytes the command needs (R262 checks 3, 4). -/
def BufOk (cfg : Config) (b : Buf) (need : Nat) : Prop := b.base + b.len ≤ 2 ^ cfg.aw ∧ need ≤ b.len

/-- Address `a` is one of the first `need` bytes of the buffer (R62). -/
def InExtent (b : Buf) (need a : Nat) : Prop := b.base ≤ a ∧ a < b.base + need

/-- The two extents share no address (R62). -/
def Apart (b : Buf) (n : Nat) (c : Buf) (k : Nat) : Prop := ∀ a, ¬ (InExtent b n a ∧ InExtent c k a)

/-- Source and destination are as a command that reads one buffer needs them (R262 checks 3 to 5). -/
def Ready (cfg : Config) (src : Buf) (needSrc : Nat) (dst : Buf) (needDst : Nat) : Prop :=
  BufOk cfg src needSrc ∧ BufOk cfg dst needDst ∧ Apart dst needDst src needSrc

/-- `s` after a command that ended in DONE and left memory `m`: nothing else is different. -/
def doneWith (s : State) (m : Memory) : State := { s with status := .done, cause := 0, mem := m }

/-- `s` after a command that faulted with CAUSE `c`: nothing else is different (R265). -/
def faultedWith (s : State) (c : BitVec 8) : State := { s with status := .fault, cause := c }

/-- Every byte outside the first `need` bytes of the destination reads as before (R67). -/
def KeepsOutside (s : State) (m : Memory) (dst : Buf) (need : Nat) : Prop :=
  ∀ a, ¬ InExtent dst need a → Memory.read m a = Memory.read s.mem a

/-! Pixels -/

/-- The address of pixel (`x`, `y`) of a frame `w` pixels wide (R12). -/
def pxAddr (b : Buf) (bpp w x y : Nat) : Nat := b.base + (y * w + x) * bpp

/-- The pixels at two addresses are equal byte for byte (R12). -/
abbrev SamePx (m : Memory) (bpp a b : Nat) : Prop :=
  ∀ c < bpp, Memory.read m (a + c) = Memory.read m (b + c)

/-- Column `x`, row `y` lies in the image of `iw` by `ih` pixels at (`ox`, `oy`). -/
def InImage (ox oy iw ih x y : Nat) : Prop := ox ≤ x ∧ x < ox + iw ∧ oy ≤ y ∧ y < oy + ih

/-- Every byte of the canvas that is not of the image is 0 (R184, R226, R241). -/
def ZeroBorder (m : Memory) (dst : Buf) (bpp dw dh ox oy iw ih : Nat) : Prop :=
  ∀ x < dw, ∀ y < dh, ¬ InImage ox oy iw ih x y →
    ∀ c < bpp, Memory.read m (pxAddr dst bpp dw x y + c) = 0

/-- RGB565 pixel number `i` from `base` on: which byte is the less significant one is RGB565_BYTE_ORDER
(R57). -/
def pixel565 (cfg : Config) (m : Memory) (base i : Nat) : BitVec 16 :=
  let low := Memory.read m (base + 2 * i)
  let high := Memory.read m (base + 2 * i + 1)
  match cfg.byteOrder with
  | .little => high ++ low
  | .big => low ++ high

/-! The preconditions and buffers of the commands, rule by rule (R262, and each command's rule) -/

/-- R125 (a) to (c). -/
def PanelOk (w h n : Nat) : Prop := (32 ≤ w ∧ w % 32 = 0) ∧ (32 ≤ h ∧ h % 32 = 0) ∧ 1 ≤ n ∧ 512 % n = 0

/-- R184. -/
def ScaleDownOk (sw sh dw dh : Nat) : Prop :=
  2 ≤ sw ∧ sw % 2 = 0 ∧ 2 ≤ sh ∧ sh % 2 = 0 ∧ 1 ≤ dw ∧ 1 ≤ dh ∧ sw / 2 ≤ dw ∧ sh / 2 ≤ dh

/-- R241. -/
def CenterOk (sw sh dw dh : Nat) : Prop := 1 ≤ sw ∧ 1 ≤ sh ∧ 1 ≤ dw ∧ 1 ≤ dh ∧ sw ≤ dw ∧ sh ≤ dh

/-- The parameter preconditions of each command, with the limits BITLEN_MAX, NARROW_MAX and BPP_SET of R8. -/
def params (cfg : Config) : Instr → Prop
  | .mapaddr x y sw sh nlr => PanelOk sw sh nlr ∧ x < sw ∧ y < sh
  | .idx2rgb24 _ _ _ _ => True
  | .splitplanes _ _ sw sh bitlen => (8 ≤ sw ∧ sw % 8 = 0) ∧ 1 ≤ sh ∧ 1 ≤ bitlen ∧ bitlen ≤ cfg.bitlenMax
  | .splitdots _ _ sw sh nlr _ => PanelOk sw sh nlr
  | .scaledownIdx _ _ sw sh dw dh =>
    (sw ≤ cfg.narrowMax ∧ sh ≤ cfg.narrowMax ∧ dw ≤ cfg.narrowMax ∧ dh ≤ cfg.narrowMax) ∧
      ScaleDownOk sw sh dw dh
  | .scaledownPup _ _ sw sh dw dh => ScaleDownOk sw sh dw dh
  | .scaledown _ _ sw sh dw dh bpp => bpp ∈ cfg.bppSet ∧ ScaleDownOk sw sh dw dh
  | .scaleupIdx _ _ sw sh => 1 ≤ sw ∧ 1 ≤ sh
  | .scaleup _ _ sw sh bpp => bpp ∈ cfg.bppSet ∧ 1 ≤ sw ∧ 1 ≤ sh
  | .bilinear _ _ sw sh dw dh => 1 ≤ sw ∧ 1 ≤ sh ∧ 1 ≤ dw ∧ 1 ≤ dh
  | .centerIdx _ _ sw sh dw dh => CenterOk sw sh dw dh
  | .center _ _ sw sh dw dh bpp => bpp ∈ cfg.bppSet ∧ CenterOk sw sh dw dh

/-- The buffers each command reads, with the bytes it needs: the source, then the palette. -/
def sources : Instr → List (Buf × Nat)
  | .mapaddr _ _ _ _ _ => []
  | .idx2rgb24 src pal _ count => [(src, count), (pal, 768)]
  | .splitplanes src _ sw sh _ => [(src, sw * sh)]
  | .splitdots src _ sw sh _ _ => [(src, 2 * sw * sh)]
  | .scaledownIdx src _ sw sh _ _ => [(src, sw * sh)]
  | .scaledownPup src _ sw sh _ _ => [(src, sw * sh)]
  | .scaledown src _ sw sh _ _ bpp => [(src, sw * sh * bpp)]
  | .scaleupIdx src _ sw sh => [(src, sw * sh)]
  | .scaleup src _ sw sh bpp => [(src, sw * sh * bpp)]
  | .bilinear src _ sw sh _ _ => [(src, 2 * sw * sh)]
  | .centerIdx src _ sw sh _ _ => [(src, sw * sh)]
  | .center src _ sw sh _ _ bpp => [(src, sw * sh * bpp)]

/-- The buffer each command writes, with the bytes it needs. -/
def targets : Instr → List (Buf × Nat)
  | .mapaddr _ _ _ _ _ => []
  | .idx2rgb24 _ _ dst count => [(dst, 3 * count)]
  | .splitplanes _ dst sw sh bitlen => [(dst, bitlen * (sw * sh / 8))]
  | .splitdots _ dst sw sh _ _ => [(dst, 3 * (sw * sh / 2))]
  | .scaledownIdx _ dst _ _ dw dh => [(dst, dw * dh)]
  | .scaledownPup _ dst _ _ dw dh => [(dst, dw * dh)]
  | .scaledown _ dst _ _ dw dh bpp => [(dst, dw * dh * bpp)]
  | .scaleupIdx _ dst sw sh => [(dst, 4 * sw * sh)]
  | .scaleup _ dst sw sh bpp => [(dst, 4 * sw * sh * bpp)]
  | .bilinear _ dst _ _ dw dh => [(dst, 2 * dw * dh)]
  | .centerIdx _ dst _ _ dw dh => [(dst, dw * dh)]
  | .center _ dst _ _ dw dh bpp => [(dst, dw * dh * bpp)]

/-- Every buffer of the command lies in the address space (R262 check 3). -/
def SpaceOk (cfg : Config) (i : Instr) : Prop :=
  ∀ p ∈ sources i ++ targets i, p.1.base + p.1.len ≤ 2 ^ cfg.aw

/-- Every buffer of the command is long enough (R262 check 4). -/
def LengthOk (i : Instr) : Prop := ∀ p ∈ sources i ++ targets i, p.2 ≤ p.1.len

/-- The destination extent meets no extent the command reads (R262 check 5). -/
def ApartOk (i : Instr) : Prop := ∀ d ∈ targets i, ∀ p ∈ sources i, Apart d.1 d.2 p.1 p.2

/-- The fields R84 lists for an OP, and OP itself. -/
def usedFields (op : Nat) : List Field :=
  let src := [Field.srcBase, .srcLen]
  let dst := [Field.dstBase, .dstLen]
  let size := [Field.srcW, .srcH]
  let canvas := [Field.dstW, .dstH]
  .op ::
    match op with
    | 0x01 => [.x, .y, .srcW, .srcH, .nlr]
    | 0x02 => src ++ [.palBase, .palLen] ++ dst ++ [.count]
    | 0x03 => src ++ dst ++ size ++ [.bitlen]
    | 0x04 => src ++ dst ++ size ++ [.nlr, .cm]
    | 0x05 => src ++ dst ++ size ++ canvas
    | 0x06 => src ++ dst ++ size ++ canvas
    | 0x07 => src ++ dst ++ size ++ canvas ++ [.bpp]
    | 0x08 => src ++ dst ++ size
    | 0x09 => src ++ dst ++ size ++ [.bpp]
    | 0x0A => src ++ dst ++ size ++ canvas
    | 0x0B => src ++ dst ++ size ++ canvas
    | 0x0C => src ++ dst ++ size ++ canvas ++ [.bpp]
    | _ => []

/-! What the commands compute, rule by rule -/

/-- `MapAddr(x, y, w, h, n)` with the definitions of R122 written in. -/
def mapIndex (x y w h n : Nat) : Nat :=
  y % n * (w * h / n / 2)
    + (w / 32 * (h / 32) - (y / 32 + 1) * (w / 32) + x / 32) * (512 / n)
    + x % (512 / n)

/-- SPLITDOTS visits (`x`, `y`) (R156). -/
def Visited (w h x y : Nat) : Prop := x < w ∧ y < h ∧ y % 32 < 16

/-- Bit `k` of the three bits each channel gives a dot pair, as ColorMatrix names the channels (R141): red, green,
blue. CH3_SELECT takes the low three bits of each field, or the high three (R142). -/
def dotBits (cfg : Config) (c : BitVec 16) (cm : ColorMatrix) (k : Nat) : Bool × Bool × Bool :=
  let (h, m, l) :=
    match cfg.ch3Select with
    | .low3 => (c.getLsbD (11 + k), c.getLsbD (5 + k), c.getLsbD k)
    | .high3 => (c.getLsbD (13 + k), c.getLsbD (8 + k), c.getLsbD (2 + k))
  match cm with
  | .rgb => (h, m, l)
  | .rbg => (h, l, m)

/-- The byte has the bits `r0 g0 b0 r1 g1 b1` from bit 5 down and 0 above (R95), for bit `k` of the pair
(`x`, `y`) and (`x`, `y + 16`) of the source (R156). -/
def IsDotByte (cfg : Config) (b : Byte) (m : Memory) (src : Buf) (w : Nat) (cm : ColorMatrix) (k x y : Nat) :
    Prop :=
  b.getLsbD 7 = false ∧ b.getLsbD 6 = false ∧
  (b.getLsbD 5, b.getLsbD 4, b.getLsbD 3) =
    dotBits cfg (pixel565 cfg m src.base (y * w + x)) cm k ∧
  (b.getLsbD 2, b.getLsbD 1, b.getLsbD 0) =
    dotBits cfg (pixel565 cfg m src.base ((y + 16) * w + x)) cm k

/-- The address of the pixel `Pick` chooses among four (R181); `left` and `upper` name the quadrant (R182). -/
def pickAddr (m : Memory) (bpp ul ur ll lr : Nat) (left upper : Bool) : Nat :=
  if SamePx m bpp ul ur ∨ SamePx m bpp ul ll ∨ SamePx m bpp ul lr then ul
  else if SamePx m bpp ur ll ∨ SamePx m bpp ur lr then ur
  else if SamePx m bpp ll lr then ll
  else if upper then (if left then ul else ur) else (if left then ll else lr)

/-- `ScaleDown(bpp, sw, sh, dw, dh)` ends in DONE with the picked pixels centred in a zero canvas (R184). -/
def ScalesDown (o : Host.Outcome State Fault Refusal) (s : State) (src dst : Buf) (bpp sw sh dw dh : Nat) :
    Prop :=
  ∃ m, o = .next (doneWith s m) ∧
    (∀ bx < sw / 2, ∀ row < sh / 2, ∀ c < bpp,
      Memory.read m
          (pxAddr dst bpp dw ((dw - sw / 2) / 2 + bx) ((dh - sh / 2) / 2 + row) + c) =
        Memory.read s.mem
          (pickAddr s.mem bpp
            (pxAddr src bpp sw (2 * bx) (2 * row)) (pxAddr src bpp sw (2 * bx + 1) (2 * row))
            (pxAddr src bpp sw (2 * bx) (2 * row + 1)) (pxAddr src bpp sw (2 * bx + 1) (2 * row + 1))
            (2 * bx < sw / 2) (2 * row < sh / 2) + c)) ∧
    ZeroBorder m dst bpp dw dh ((dw - sw / 2) / 2) ((dh - sh / 2) / 2) (sw / 2) (sh / 2) ∧
    KeepsOutside s m dst (dw * dh * bpp)

/-- The address of the pixel `E0` to `E3` of R202 takes, from the addresses of `b`, `d`, `e`, `f`, `h`; `i`
is 1 for the right corners, `j` is 1 for the lower ones. -/
def cornerAddr (m : Memory) (bpp b d e f h i j : Nat) : Nat :=
  if ¬ SamePx m bpp b h ∧ ¬ SamePx m bpp d f then
    if i = 0 ∧ j = 0 then (if SamePx m bpp d b then d else e)
    else if j = 0 then (if SamePx m bpp b f then f else e)
    else if i = 0 then (if SamePx m bpp d h then d else e)
    else (if SamePx m bpp h f then f else e)
  else e

/-- The position before `t`, clamped at 0 (R201). -/
def before (t : Nat) : Nat := if t = 0 then 0 else t - 1

/-- The position after `t`, clamped at the last of `n` (R201). -/
def after (t n : Nat) : Nat := if t + 1 < n then t + 1 else t

/-- `ScaleUp(bpp, sw, sh)` ends in DONE with the 2×2 block of every source pixel (R201 to R203). -/
def ScalesUp (o : Host.Outcome State Fault Refusal) (s : State) (src dst : Buf) (bpp sw sh : Nat) : Prop :=
  ∃ m, o = .next (doneWith s m) ∧
    (∀ x < sw, ∀ y < sh, ∀ i < 2, ∀ j < 2, ∀ c < bpp,
      Memory.read m (pxAddr dst bpp (2 * sw) (2 * x + i) (2 * y + j) + c) =
        Memory.read s.mem
          (cornerAddr s.mem bpp
            (pxAddr src bpp sw x (before y)) (pxAddr src bpp sw (before x) y) (pxAddr src bpp sw x y)
            (pxAddr src bpp sw (after x sw) y) (pxAddr src bpp sw x (after y sh)) i j + c)) ∧
    KeepsOutside s m dst (4 * sw * sh * bpp)

/-- `Center(bpp, sw, sh, dw, dh)` ends in DONE with the source centred in a zero canvas (R241). -/
def Centers (o : Host.Outcome State Fault Refusal) (s : State) (src dst : Buf) (bpp sw sh dw dh : Nat) :
    Prop :=
  ∃ m, o = .next (doneWith s m) ∧
    (∀ x < sw, ∀ y < sh, ∀ c < bpp,
      Memory.read m (pxAddr dst bpp dw ((dw - sw) / 2 + x) ((dh - sh) / 2 + y) + c) =
        Memory.read s.mem (pxAddr src bpp sw x y + c)) ∧
    ZeroBorder m dst bpp dw dh ((dw - sw) / 2) ((dh - sh) / 2) sw sh ∧
    KeepsOutside s m dst (dw * dh * bpp)

/-! BILINEAR over the rational numbers -/

/-- `(scw, sch)` (R221). -/
def fitSize (sw sh dw dh : Nat) : Nat × Nat :=
  if dw * sh < sw * dh then (dw, dw * sh / sw) else (dh * sw / sh, dh)

/-- The clamped sample coordinate of output position `i`: the document's half-pixel-centre mapping (R222). -/
def coord (i size scaled : Nat) : ℚ :=
  min (max (((i : ℚ) + 1 / 2) * ((size : ℚ) / scaled) - 1 / 2) 0) ((size : ℚ) - 1)

/-- `x0`: the floor of the coordinate (R222). -/
def lowAt (i size scaled : Nat) : Nat := ⌊coord i size scaled⌋₊

/-- `x1` (R222). -/
def highAt (i size scaled : Nat) : Nat := min (lowAt i size scaled + 1) (size - 1)

/-- `tx` (R222). -/
def fracAt (i size scaled : Nat) : ℚ := coord i size scaled - lowAt i size scaled

/-- `v` (R223). -/
def blend (c00 c10 c01 c11 : Nat) (tx ty : ℚ) : ℚ :=
  c00 * (1 - tx) * (1 - ty) + c10 * tx * (1 - ty) + c01 * (1 - tx) * ty + c11 * tx * ty

/-- The field of `width` bits at bit `shift` (R223). -/
def field565 (shift width : Nat) (p : BitVec 16) : Nat := p.toNat / 2 ^ shift % 2 ^ width

/-- The channel of the scaled image's pixel (`x`, `y`) before it is made an integer (R222, R223). -/
def channelAt (cfg : Config) (m : Memory) (src : Buf) (sw sh scw sch shift width x y : Nat) : ℚ :=
  let c (px py : Nat) : Nat := field565 shift width (pixel565 cfg m src.base (py * sw + px))
  blend (c (lowAt x sw scw) (lowAt y sh sch)) (c (highAt x sw scw) (lowAt y sh sch))
    (c (lowAt x sw scw) (highAt y sh sch)) (c (highAt x sw scw) (highAt y sh sch))
    (fracAt x sw scw) (fracAt y sh sch)

/-- An interpolated value as an integer: BILINEAR_ROUND (R223). -/
def rounded (cfg : Config) (v : ℚ) : Nat :=
  match cfg.bilinearRound with
  | .trunc => ⌊v⌋₊
  | .nearest => ⌊v + 1 / 2⌋₊

/-! Host actions -/

/-- The step performs host action `a`, and after it the actions `rest` are still to come. -/
def NextAction (s : State) (a : HostAction) (rest : List HostAction) : Prop := s.pending = a :: rest

/-- It is the block's turn: the host has no action, or waits (log 10). `s'` is `s` after the wait. -/
def BlocksTurn (s s' : State) : Prop :=
  (s.pending = [] ∧ s' = s) ∨ ∃ rest, s.pending = .wait :: rest ∧ s' = { s with pending := rest }

/-- START begins a command in `s` (R27), and it is what the host does next. -/
def Startable (s : State) : Prop := (s.status = .idle ∨ s.status = .done) ∧ s.pending = [.start]

/-- Address `a` is a byte that the running command uses (R61, R294). -/
def InUse (s : State) (a : Nat) : Prop :=
  s.status = .busy ∧ ∃ i, selectInstr s.cfg s.desc = some i ∧ ∃ p ∈ sources i ++ targets i, InExtent p.1 p.2 a

/-- START from `s` and the turn of the block after it end in `t` (R27; log 9). -/
def StartEnds (s t : State) : Prop := ∃ u, step s = .next u ∧ step u = .next t

end Sys2Proof.Claims

open Sys2Proof Sys2Proof.Machine Sys2Proof.Claims

/-! ## Encoding -/

/-- Decoding inverts encoding, whatever bytes follow, for every well-formed command with every operand, for all
widths AW and DIM_BITS (log 24). From R81 to R84. -/
def Obligations.DecodeInvertsEncode : Prop :=
  ∀ (cfg : Config) (i : Instr) (rest : List Byte), WellFormed cfg i = true →
    decodeBytes cfg (encode i ++ rest) = .ok (i, rest)

/-- The serialised descriptor (R81, R83) is the descriptor: 48 bytes read back as it, and bytes that read as
it are its bytes; so no bit of the twelve words is dropped or read twice. -/
def Obligations.SerialisationIsFaithful : Prop :=
  (∀ (d : Desc) (rest : List Byte),
    (bytesOfWords (wordsOfDesc d)).length = 48 ∧
      takeDesc (bytesOfWords (wordsOfDesc d) ++ rest) = some (d, rest)) ∧
  ∀ (bs : List Byte) (d : Desc) (rest : List Byte),
    takeDesc bs = some (d, rest) → bs = bytesOfWords (wordsOfDesc d) ++ rest

/-- Every operand is the unsigned value of its bits of the words (R82), whatever the other bits are. -/
def Obligations.FieldsAreReadFromTheirBits : Prop :=
  ∀ w0 w1 w2 w3 w4 w5 w6 w7 w8 w9 w10 w11 : Word,
    ∃ d, descOfWords [w0, w1, w2, w3, w4, w5, w6, w7, w8, w9, w10, w11] = some d ∧
      d.op.toNat = w0.toNat % 2 ^ 8 ∧ d.rsvW0.toNat = w0.toNat / 2 ^ 8 ∧
      d.srcBase = w1 ∧ d.srcLen = w2 ∧ d.dstBase = w3 ∧ d.dstLen = w4 ∧ d.palBase = w5 ∧ d.palLen = w6 ∧
      d.srcW.toNat = w7.toNat % 2 ^ 16 ∧ d.srcH.toNat = w7.toNat / 2 ^ 16 ∧
      d.dstW.toNat = w8.toNat % 2 ^ 16 ∧ d.dstH.toNat = w8.toNat / 2 ^ 16 ∧
      d.bpp.toNat = w9.toNat % 2 ^ 4 ∧ d.cm.toNat = w9.toNat / 2 ^ 4 % 2 ∧
      d.rsvW9lo.toNat = w9.toNat / 2 ^ 5 % 2 ^ 3 ∧ d.bitlen.toNat = w9.toNat / 2 ^ 8 % 2 ^ 4 ∧
      d.rsvW9hi.toNat = w9.toNat / 2 ^ 12 % 2 ^ 4 ∧ d.nlr.toNat = w9.toNat / 2 ^ 16 ∧
      d.count = w10 ∧ d.x.toNat = w11.toNat % 2 ^ 16 ∧ d.y.toNat = w11.toNat / 2 ^ 16

/-- What decoding yields is well formed, takes exactly 48 bytes, and is the OP's command. -/
def Obligations.DecodedCommandIsWellFormed : Prop :=
  ∀ (cfg : Config) (bs : List Byte) (i : Instr) (rest : List Byte), decodeBytes cfg bs = .ok (i, rest) →
    WellFormed cfg i = true ∧ bs.length = 48 + rest.length ∧ bs[0]? = some (opcode i)

/-- Words written out from 30_encoding and 95_test_vectors select the command they stand for. -/
def Obligations.SpecWordsDecode : Prop :=
  decodeBytes Config.std (bytesOfWords
      [0x00000001, 0, 0, 0, 0, 0, 0, 0x00200080, 0, 0x00100000, 0, 0x00030005]) =
    .ok (.mapaddr 5 3 128 32 16, []) ∧
  decodeBytes Config.std (bytesOfWords
      [0x00000004, 0x00010000, 0x800, 0x00020000, 0x600, 0, 0, 0x00200020, 0, 0x00100010, 0, 0]) =
    .ok (.splitdots ⟨0x10000, 0x800⟩ ⟨0x20000, 0x600⟩ 32 32 16 .rbg, []) ∧
  decodeBytes Config.std (bytesOfWords
      [0x00000007, 0, 0x10, 0x100, 0xC, 0, 0, 0x00020004, 0x00020003, 0x00000002, 0, 0]) =
    .ok (.scaledown ⟨0, 16⟩ ⟨0x100, 12⟩ 4 2 3 2 2, [])

/-- R85: START with an unassigned OP faults with ILLEGAL_OP and nothing else changes, whatever the reserved bits
are; with an assigned OP, START never ends in that fault. -/
def Obligations.UnassignedOpFaults : Prop :=
  ∀ s : State, Startable s →
    (s.desc.op = 0x00 ∨ 0x0D ≤ s.desc.op.toNat →
      ∃ l, StartEnds s { s with status := .fault, cause := 1, pending := [], lent := l }) ∧
    (0x01 ≤ s.desc.op.toNat → s.desc.op.toNat ≤ 0x0C → ∀ t, StartEnds s t → t.cause ≠ 1)

/-- R86: START with an assigned OP and a reserved bit that is not zero faults with PARAM, and nothing else
changes. -/
def Obligations.ReservedBitsFault : Prop :=
  ∀ s : State, Startable s → 0x01 ≤ s.desc.op.toNat → s.desc.op.toNat ≤ 0x0C →
    (s.desc.rsvW0 ≠ 0 ∨ s.desc.rsvW9lo ≠ 0 ∨ s.desc.rsvW9hi ≠ 0) →
    ∃ l, StartEnds s { s with status := .fault, cause := 2, pending := [], lent := l }

/-- R265: a fault writes STATE and CAUSE and nothing else; D, RESULT and every byte of memory are as they were
before START. (`lent` and `pending` are the model's bookkeeping of the host.) -/
def Obligations.FaultEntryKeepsTheRest : Prop :=
  ∀ s t : State, Startable s → StartEnds s t → t.status = .fault →
    t = { s with status := .fault, cause := t.cause, pending := [], lent := t.lent } ∧
      (t.cause = 1 ∨ t.cause = 2 ∨ t.cause = 3 ∨ t.cause = 4)

/-- R87: a field R84 does not list for the command changes nothing: with another value of it the block's turn
ends in the same state, but for the field. -/
def Obligations.UnusedFieldsAreIgnored : Prop :=
  ∀ (s t : State) (f : Field) (v : Nat),
    s.pending = [] → s.status = .busy → f ∉ usedFields s.desc.op.toNat →
    f ≠ .rsvW0 → f ≠ .rsvW9lo → f ≠ .rsvW9hi →
    step s = .next t →
    step { s with desc := writeField s.desc v f } = .next { t with desc := writeField t.desc v f }

/-! ## Steps, host actions, status -/

/-- A step runs the decoded command: while BUSY, at the block's turn, the step is exec of the command the
descriptor's bytes decode to. -/
def Obligations.StepRunsDecodedCommand : Prop :=
  ∀ (s s' : State) (i : Instr), BlocksTurn s s' → s.status = .busy →
    decodeBytes s.cfg (bytesOfWords (wordsOfDesc s.desc)) = .ok (i, []) → step s = exec i s'

/-- R27: START from IDLE or DONE makes the block BUSY with CAUSE 0 and keeps D, RESULT and memory, whatever the
host does next; the block's turn after it is the one transition of the command that D selects (log 9: the model
makes it two steps; the extents handed over are log 11), whichever fields the host has written (log 25). -/
def Obligations.StartIsOneTransition : Prop :=
  ∀ (s : State) (rest : List HostAction), (s.status = .idle ∨ s.status = .done) → NextAction s .start rest →
    ∃ l, step s = .next { s with status := .busy, cause := 0, pending := rest, lent := l } ∧
      ∀ i, decodeDesc s.cfg s.desc = .ok i →
        (rest = [] →
          step { s with status := .busy, cause := 0, pending := [], lent := l } =
            exec i { s with status := .busy, cause := 0, pending := [], lent := l }) ∧
        ∀ later, rest = .wait :: later →
          step { s with status := .busy, cause := 0, pending := rest, lent := l } =
            exec i { s with status := .busy, cause := 0, pending := later, lent := l }

/-- R27, R30 (log 25): which fields the host has written changes nothing but the record of it. In particular a
START on unwritten fields goes on, with whatever values D holds. -/
def Obligations.WrittenRecordChangesNothing : Prop :=
  ∀ (s : State) (ws : List Field),
    (∀ t, step s = .next t → ∃ ws', step { s with written := ws } = .next { t with written := ws' }) ∧
    (∀ f, step s = .fault f → step { s with written := ws } = .fault f) ∧
    ∀ r, step s = .refused r → step { s with written := ws } = .refused r

/-- R26, R30 (log 25): the record says what it is to say: after a step a field counts as written if the host wrote
it in that step, or if it did before and the step was no RESET. -/
def Obligations.WrittenRecordsTheHost : Prop :=
  ∀ s t : State, step s = .next t → ∀ f,
    (f ∈ t.written ↔ (∃ v rest, NextAction s (.write f v) rest) ∨
      (f ∈ s.written ∧ ∀ rest, ¬ NextAction s .reset rest))

/-- R266: in FAULT nothing but CLEAR or RESET changes STATE, CAUSE or RESULT; START has no effect at all, and
CLEAR gives IDLE and CAUSE 0 and keeps D, RESULT and memory. -/
def Obligations.FaultIsSticky : Prop :=
  ∀ s : State, s.status = .fault →
    (∀ t, step s = .next t → (∀ rest, s.pending ≠ .clear :: rest ∧ s.pending ≠ .reset :: rest) →
      t.status = .fault ∧ t.cause = s.cause ∧ t.result = s.result) ∧
    (∀ rest, s.pending = .start :: rest → step s = .next { s with pending := rest }) ∧
    (∀ rest, s.pending = .clear :: rest →
      step s = .next { s with pending := rest, status := .idle, cause := 0 })

/-- R26, CLEAR: DONE to IDLE with CAUSE 0, keeping D, RESULT and memory; no effect in IDLE. -/
def Obligations.ClearLeavesDone : Prop :=
  ∀ (s : State) (rest : List HostAction), NextAction s .clear rest →
    (s.status = .done → step s = .next { s with pending := rest, status := .idle, cause := 0 }) ∧
    (s.status = .idle → step s = .next { s with pending := rest })

/-- R26, WRITE: outside BUSY it sets the one field to the value, which then counts as written (log 25), and
changes nothing else of the machine. For a value the field cannot hold, what the field then holds is a free value
(log 13), and everything else is the same. -/
def Obligations.WriteSetsOneField : Prop :=
  ∀ (s : State) (f : Field) (v : Nat) (rest : List HostAction), NextAction s (.write f v) rest →
    s.status ≠ .busy →
    ∃ d ws n, step s = .next { s with pending := rest, desc := d, written := ws, freeCount := n } ∧
      (∀ g, g ≠ f → readField s.cfg d g = readField s.cfg s.desc g) ∧
      (∀ g, g ∈ ws ↔ g = f ∨ g ∈ s.written) ∧
      (v < 2 ^ fieldWidth s.cfg f → (readField s.cfg d f).toNat = v ∧ n = s.freeCount) ∧
      (2 ^ fieldWidth s.cfg f ≤ v → n = s.freeCount + 1)

/-- R26 and R23 to R25, READ: the host gets the register's value (in `readData`, log 14), and nothing else
changes; but a READ of STATUS in DONE or FAULT gives the host its extents back (R295; log 11). -/
def Obligations.ReadReturnsRegister : Prop :=
  ∀ (s : State) (r : Reg) (rest : List HostAction), NextAction s (.read r) rest → s.status ≠ .busy →
    ∃ v l, step s = .next { s with pending := rest, readData := v, lent := l } ∧
      (l = if r = .status ∧ (s.status = .done ∨ s.status = .fault) then [] else s.lent) ∧
      match r with
      | .status => v.toNat =
          (match s.status with
          | .idle => 0
          | .busy => 1
          | .done => 2
          | .fault => 3)
      | .cause => v.toNat = s.cause.toNat
      | .result => v = s.result
      | .field f => v = readField s.cfg s.desc f

/-- R30, RESET: legal in any state; STATE IDLE and CAUSE 0 after it, and no field counts as written (log 25);
memory as before, but that while BUSY the destination extent of the interrupted command may change (D and RESULT
are free values, log 3; log 4). The host has its extents back (log 11). -/
def Obligations.ResetAction : Prop :=
  ∀ (s : State) (rest : List HostAction), NextAction s .reset rest →
    ∃ t, step s = .next t ∧ t.status = .idle ∧ t.cause = 0 ∧ t.pending = rest ∧ t.written = [] ∧ t.lent = [] ∧
      t.readData = s.readData ∧ (s.status ≠ .busy → t.mem = s.mem) ∧
      ∀ a, (∀ i, selectInstr s.cfg s.desc = some i → ∀ d ∈ targets i, ¬ InExtent d.1 d.2 a) →
        Memory.read t.mem a = Memory.read s.mem a

/-- R296: while BUSY the host may only READ STATUS (which shows 1) and RESET; WRITE, START, CLEAR and any other
READ (log 12) are refused. -/
def Obligations.BusyRefusesTheHost : Prop :=
  ∀ (s : State) (rest : List HostAction), s.status = .busy →
    (∀ f v, NextAction s (.write f v) rest → step s = .refused .writeWhileBusy) ∧
    (NextAction s .start rest → step s = .refused .startWhileBusy) ∧
    (NextAction s .clear rest → step s = .refused .clearWhileBusy) ∧
    (∀ r, r ≠ .status → NextAction s (.read r) rest → step s = .refused .readWhileBusy) ∧
    (NextAction s (.read .status) rest → step s = .next { s with pending := rest, readData := 1 }) ∧
    (NextAction s .reset rest → Continues (step s))

/-- R294, R295 (the model's bookkeeping, log 11): START hands over the source, palette and destination extents of
its command. As long as they are still handed over, a host store to one of their bytes and a host load of a
destination byte are refused; while the command runs, any host access to them is. A READ of STATUS in DONE or
FAULT gives them all back; that nothing else but RESET does is `LentStaysUntilReadOrReset`. -/
def Obligations.BuffersAreTheBlocksUntilRead : Prop :=
  (∀ (s t u : State) (i : Instr) (rest : List HostAction), (s.status = .idle ∨ s.status = .done) →
    NextAction s .start rest → selectInstr s.cfg s.desc = some i → step s = .next t →
    (∀ e ∈ t.lent, e ∈ u.lent) →
    ∀ p a, InExtent p.1 p.2 a → a < 2 ^ u.cfg.aw →
      (p ∈ sources i ++ targets i → ∀ b k, NextAction u (.memWrite a b) k → step u = .refused (.bufferLent a)) ∧
      (p ∈ targets i → ∀ k, NextAction u (.memRead a) k → step u = .refused (.bufferLent a))) ∧
  (∀ (u : State) (a : Nat) (k : List HostAction), InUse u a → a < 2 ^ u.cfg.aw →
    ((∃ b, NextAction u (.memWrite a b) k) ∨ NextAction u (.memRead a) k) → step u = .refused (.bufferLent a)) ∧
  ∀ (s t : State) (rest : List HostAction), (s.status = .done ∨ s.status = .fault) →
    NextAction s (.read .status) rest → step s = .next t → t.lent = []

/-- R295: until the host has read STATE = DONE or FAULT, an extent it has handed over stays handed over: no step
but that READ, and RESET (log 11), takes one away. -/
def Obligations.LentStaysUntilReadOrReset : Prop :=
  ∀ s t : State, step s = .next t → (∀ rest, ¬ NextAction s .reset rest) →
    (∀ rest, NextAction s (.read .status) rest → s.status ≠ .done ∧ s.status ≠ .fault) →
    ∀ e ∈ s.lent, e ∈ t.lent

/-- R294, R295 (with the bookkeeping of log 11): a host store to a byte that no running command uses and no
extent still handed over covers puts its byte and keeps every other byte; a host load of a byte that no running
command uses and no destination extent still handed over covers returns the byte. -/
def Obligations.HostOwnsItsMemory : Prop :=
  ∀ (s : State) (a : Nat) (rest : List HostAction), a < 2 ^ s.cfg.aw → ¬ InUse s a →
    (∀ b, NextAction s (.memWrite a b) rest → (∀ e ∈ s.lent, ¬ (e.base ≤ a ∧ a < e.base + e.len)) →
      ∃ m, step s = .next { s with pending := rest, mem := m } ∧ Memory.read m a = b ∧
        ∀ a', a' ≠ a → Memory.read m a' = Memory.read s.mem a') ∧
    (NextAction s (.memRead a) rest →
      (∀ e ∈ s.lent, e.isDst = true → ¬ (e.base ≤ a ∧ a < e.base + e.len)) →
      ∃ v, step s = .next { s with pending := rest, readData := v } ∧ v.toNat = (Memory.read s.mem a).toNat)

/-- R50: there is no byte at or above `2^AW`: a host access there stops the machine (log 16). -/
def Obligations.NoMemoryBeyondTheSpace : Prop :=
  ∀ (s : State) (a : Nat) (rest : List HostAction), 2 ^ s.cfg.aw ≤ a →
    ((∃ b, NextAction s (.memWrite a b) rest) ∨ NextAction s (.memRead a) rest) →
      step s = .fault (.outsideAddressSpace a)

/-- R5, R290: the block starts nothing by itself: at its turn, when not BUSY, nothing changes. -/
def Obligations.BlockWaitsForStart : Prop :=
  ∀ s s' : State, BlocksTurn s s' → s.status ≠ .busy → step s = .next s'

/-- A conforming host never sees the machine stop: every legal action, and every turn of the block, has a next
state, and so has a START outside BUSY with fields unwritten (log 25) (R26, R291, R293 to R296). -/
def Obligations.LegalActionContinues : Prop :=
  ∀ s : State, (s.pending = [] → Continues (step s)) ∧
    (∀ a rest, s.pending = a :: rest → LegalAction s a → Continues (step s)) ∧
    ∀ rest, s.pending = .start :: rest → s.status ≠ .busy → Continues (step s)

/-! ## Reset and invariants -/

/-- R30: the values the spec gives for reset; no field counts as written (R30, log 25). R8, R224: the parameters are
at their defaults (log 7). No byte of memory is other than 0 (the model's choice, log 5). -/
def Obligations.ResetState : Prop :=
  State.reset.status = .idle ∧ State.reset.cause = 0 ∧ (∀ f, f ∉ State.reset.written) ∧
  (∀ a, Memory.read State.reset.mem a = 0) ∧
  State.reset.cfg.aw = 32 ∧ State.reset.cfg.dimBits = 16 ∧ State.reset.cfg.narrowMax = 255 ∧
  State.reset.cfg.bppSet = [1, 2, 3] ∧ State.reset.cfg.bitlenMax = 8 ∧ State.reset.cfg.byteOrder = .little ∧
  State.reset.cfg.ch3Select = .low3 ∧ State.reset.cfg.bilinearRound = .trunc ∧ State.reset.cfg.interp = .exact

/-- The invariant holds at reset: canonical memory (the model's form, log 5) inside the address space (R50), CAUSE as
R24 and R261 say, no field twice among those written. (That none is written then is ResetState's.) -/
def Obligations.ResetMeetsInv : Prop := MachineInv State.reset

/-- Every step keeps the invariant: canonical memory (the model's form, log 5) inside the address space, CAUSE 0
unless STATE is FAULT and one of the four codes when it is (R24, R50, R261), no field twice among those written. -/
def Obligations.StepKeepsInv : Prop := ∀ s t : State, MachineInv s → step s = .next t → MachineInv t

/-- R8, R224: the parameters are the implementation's: no step changes one (log 7). -/
def Obligations.ConfigNeverChanges : Prop := ∀ s t : State, step s = .next t → t.cfg = s.cfg

/-- R25: only MAPADDR (and RESET, R30) changes RESULT; every other step, and a command that faults, leaves it.
-/
def Obligations.ResultOnlyFromMapaddr : Prop :=
  ∀ s t : State, step s = .next t → t.result ≠ s.result →
    (∃ rest, s.pending = .reset :: rest) ∨
      (s.status = .busy ∧ t.status = .done ∧
        ∃ x y sw sh nlr, decodeDesc s.cfg s.desc = .ok (.mapaddr x y sw sh nlr))

/-- R21, R28: the block only reads the descriptor: nothing but WRITE and RESET changes it. -/
def Obligations.DescriptorOnlyFromHost : Prop :=
  ∀ s t : State, step s = .next t → t.desc ≠ s.desc →
    ∃ rest, s.pending = .reset :: rest ∨ ∃ f v, s.pending = .write f v :: rest

/-- R294, R67: a byte that changes at the block's turn is a destination byte of the command that has just ended
in DONE. -/
def Obligations.BlockWritesOnlyItsTarget : Prop :=
  ∀ s s' t : State, BlocksTurn s s' → step s = .next t →
    ∀ a, Memory.read t.mem a ≠ Memory.read s.mem a →
      s.status = .busy ∧ t.status = .done ∧
        ∃ i, decodeDesc s.cfg s.desc = .ok i ∧ ∃ d ∈ targets i, InExtent d.1 d.2 a

/-! ## All commands -/

/-- R262, R261, R265: the first failing check decides the fault, and a fault changes nothing but STATE and
CAUSE; a command that passes them all ends in DONE with CAUSE 0. (That SCALEDOWN_IDX is the variant bounded by
NARROW_MAX, R186, is general knowledge by the spec's own mark, log 18.) -/
def Obligations.ChecksDecideTheFault : Prop :=
  ∀ (i : Instr) (s : State),
    (¬ params s.cfg i → exec i s = .next (faultedWith s 2)) ∧
    (params s.cfg i → ¬ SpaceOk s.cfg i → exec i s = .next (faultedWith s 3)) ∧
    (params s.cfg i → SpaceOk s.cfg i → ¬ LengthOk i → exec i s = .next (faultedWith s 3)) ∧
    (params s.cfg i → SpaceOk s.cfg i → LengthOk i → ¬ ApartOk i → exec i s = .next (faultedWith s 4)) ∧
    (params s.cfg i → SpaceOk s.cfg i → LengthOk i → ApartOk i →
      ∃ t, exec i s = .next t ∧ t.status = .done ∧ t.cause = 0)

/-- The frame of every command: the parameters, D, the host's side and the lent extents stay; RESULT changes for
MAPADDR only; memory outside the destination extent stays (R52, R67); the free value counter moves for SPLITDOTS
only. -/
def Obligations.CommandFrame : Prop :=
  ∀ (i : Instr) (s t : State), exec i s = .next t →
    t.cfg = s.cfg ∧ t.desc = s.desc ∧ t.written = s.written ∧ t.pending = s.pending ∧
    t.readData = s.readData ∧ t.lent = s.lent ∧
    ((∀ x y sw sh nlr, i ≠ .mapaddr x y sw sh nlr) → t.result = s.result) ∧
    ((∀ src dst sw sh nlr cm, i ≠ .splitdots src dst sw sh nlr cm) → t.freeCount = s.freeCount) ∧
    ∀ a, (∀ d ∈ targets i, ¬ InExtent d.1 d.2 a) → Memory.read t.mem a = Memory.read s.mem a

/-- R6, R31, R52: what a command does depends on the parameters, on its operands and on the bytes of its source and
palette, on nothing else: not on STATE, CAUSE, RESULT, D, nor on any other byte. For SPLITDOTS also on what it
leaves open: the bytes it does not write and the free values (R157, R158). -/
def Obligations.OutcomeFromOperandsAndSources : Prop :=
  ∀ (i : Instr) (s s' t t' : State), s.cfg = s'.cfg → exec i s = .next t → exec i s' = .next t' →
    (∀ p ∈ sources i, ∀ a, InExtent p.1 p.2 a → Memory.read s.mem a = Memory.read s'.mem a) →
    (∀ src dst sw sh nlr cm, i = .splitdots src dst sw sh nlr cm →
      s.freeCount = s'.freeCount ∧
        ∀ p ∈ targets i, ∀ a, InExtent p.1 p.2 a → Memory.read s.mem a = Memory.read s'.mem a) →
    t.status = t'.status ∧ t.cause = t'.cause ∧
    (t.status = .done →
      (∀ p ∈ targets i, ∀ a, InExtent p.1 p.2 a → Memory.read t.mem a = Memory.read t'.mem a) ∧
      ∀ x y sw sh nlr, i = .mapaddr x y sw sh nlr → t.result = t'.result)

/-- R89: the four identities between commands; BPP 1 is one of BPP_SET, as it is by default (R8). -/
def Obligations.CommandIdentities : Prop :=
  ∀ (src dst : Buf) (sw sh dw dh : Nat) (s : State),
    (1 ∈ s.cfg.bppSet →
      exec (.scaleupIdx src dst sw sh) s = exec (.scaleup src dst sw sh 1) s ∧
      exec (.centerIdx src dst sw sh dw dh) s = exec (.center src dst sw sh dw dh 1) s ∧
      exec (.scaledownPup src dst sw sh dw dh) s = exec (.scaledown src dst sw sh dw dh 1) s) ∧
    (sw ≤ s.cfg.narrowMax → sh ≤ s.cfg.narrowMax → dw ≤ s.cfg.narrowMax → dh ≤ s.cfg.narrowMax →
      exec (.scaledownIdx src dst sw sh dw dh) s = exec (.scaledownPup src dst sw sh dw dh) s)

/-! ## Address mapper -/

/-- R124: MAPADDR ends in DONE with RESULT = MapAddr(X, Y, SRC_W, SRC_H, NLR), the formula of R122 (log 18), and
nothing else changes. -/
def Obligations.MapaddrResult : Prop :=
  ∀ (s : State) (x y w h n : Nat), PanelOk w h n → x < w → y < h → w < 2 ^ 16 → h < 2 ^ 16 →
    ∃ r : Word, exec (.mapaddr x y w h n) s = .next { s with status := .done, cause := 0, result := r } ∧
      r.toNat = mapIndex x y w h n

/-- R123 (on the formula of R122, log 18): under the preconditions of R122 the index is below half the number of
dots. -/
def Obligations.MapAddrInRange : Prop :=
  ∀ x y w h n : Nat, PanelOk w h n → x < w → y < h → mapAddr x y w h n < w * h / 2

/-- R126 (on the formula of R122, log 18), for every panel: for n = 16, over the rows SPLITDOTS visits, MapAddr
is a bijection onto the sub-frame. -/
def Obligations.MapAddrBijectiveForSixteen : Prop :=
  ∀ w h : Nat, PanelOk w h 16 →
    (∀ x y x' y', Visited w h x y → Visited w h x' y' → mapAddr x y w h 16 = mapAddr x' y' w h 16 →
      x = x' ∧ y = y') ∧
    ∀ k < w * h / 2, ∃ x y, Visited w h x y ∧ mapAddr x y w h 16 = k

/-- R126: MapAddr depends on the coordinates only through `x mod (512 div n)`, `x div 32`, `y mod n` and
`y div 32`; so it is not injective in general: on 32×32 with n = 8, (0, 0) and (0, 8) share an index. -/
def Obligations.MapAddrForgets : Prop :=
  (∀ x y x' y' w h n : Nat, x % (512 / n) = x' % (512 / n) → x / 32 = x' / 32 → y % n = y' % n →
    y / 32 = y' / 32 → mapAddr x y w h n = mapAddr x' y' w h n) ∧
  mapAddr 0 0 32 32 8 = mapAddr 0 8 32 32 8

/-! ## Color codec -/

/-- R141: the channel values of Ch565, and Pack565 as the inverse of the split (the places of the fields are R91's,
log 18). -/
def Obligations.ChannelsOf565 : Prop :=
  ∀ c : BitVec 16,
    ch565 c .rgb = (c.toNat / 2 ^ 11, c.toNat / 2 ^ 5 % 2 ^ 6, c.toNat % 2 ^ 5) ∧
    ch565 c .rbg = (c.toNat / 2 ^ 11, c.toNat % 2 ^ 5, c.toNat / 2 ^ 5 % 2 ^ 6) ∧
    pack565 (c.toNat / 2 ^ 11) (c.toNat / 2 ^ 5 % 2 ^ 6) (c.toNat % 2 ^ 5) = c

/-- R142, R141: Ch3 under both settings of CH3_SELECT and both ColorMatrix values. The places of the fields (R91)
and HIGH3 are general knowledge by the spec's own mark (log 18). -/
def Obligations.ThreeBitChannels : Prop :=
  ∀ (cfg : Config) (c : BitVec 16),
    let hi := c.toNat / 2 ^ 11
    let mid := c.toNat / 2 ^ 5 % 2 ^ 6
    let lo := c.toNat % 2 ^ 5
    let three (h m l : Nat) (cm : ColorMatrix) : Prop :=
      ((ch3 cfg c cm).1.toNat, (ch3 cfg c cm).2.1.toNat, (ch3 cfg c cm).2.2.toNat) =
        match cm with
        | .rgb => (h, m, l)
        | .rbg => (h, l, m)
    (cfg.ch3Select = .low3 → ∀ cm, three (hi % 8) (mid % 8) (lo % 8) cm) ∧
    (cfg.ch3Select = .high3 → ∀ cm, three (hi / 4) (mid / 8) (lo / 4) cm)

/-- R57: the byte order of RGB565 pixels, read and written, under both settings. -/
def Obligations.Rgb565ByteOrder : Prop :=
  ∀ (cfg : Config) (m : Memory) (base i : Nat) (c : BitVec 16),
    let low := (Memory.read m (base + 2 * i)).toNat
    let high := (Memory.read m (base + 2 * i + 1)).toNat
    (cfg.byteOrder = .little →
      (px16 cfg m base i).toNat = low + 256 * high ∧
        (px16Bytes cfg c).map BitVec.toNat = [c.toNat % 256, c.toNat / 256]) ∧
    (cfg.byteOrder = .big →
      (px16 cfg m base i).toNat = high + 256 * low ∧
        (px16Bytes cfg c).map BitVec.toNat = [c.toNat / 256, c.toNat % 256])

/-- R145: IDX2RGB24 ends in DONE with every pixel expanded through the palette; COUNT 0 too. -/
def Obligations.Idx2rgb24Expands : Prop :=
  ∀ (s : State) (src pal dst : Buf) (n : Nat), BufOk s.cfg src n → BufOk s.cfg pal 768 → BufOk s.cfg dst (3 * n) →
    Apart dst (3 * n) src n → Apart dst (3 * n) pal 768 →
    ∃ m, exec (.idx2rgb24 src pal dst n) s = .next (doneWith s m) ∧
      (∀ i < n, ∀ c < 3, Memory.read m (dst.base + (3 * i + c)) =
        Memory.read s.mem (pal.base + (3 * (Memory.read s.mem (src.base + i)).toNat + c))) ∧
      KeepsOutside s m dst (3 * n)

/-- R150: SPLITPLANES ends in DONE with bit `v` of byte `k` of plane `i` equal to bit `i` of pixel `8k + v`
(R93, log 18). -/
def Obligations.SplitplanesSplits : Prop :=
  ∀ (s : State) (src dst : Buf) (w h bitlen : Nat), 8 ≤ w → w % 8 = 0 → 1 ≤ h → 1 ≤ bitlen →
    bitlen ≤ s.cfg.bitlenMax →
    Ready s.cfg src (w * h) dst (bitlen * (w * h / 8)) →
    ∃ m, exec (.splitplanes src dst w h bitlen) s = .next (doneWith s m) ∧
      (∀ i < bitlen, ∀ k < w * h / 8, ∀ v < 8,
        (Memory.read m (dst.base + (i * (w * h / 8) + k))).getLsbD v =
          (Memory.read s.mem (src.base + (8 * k + v))).getLsbD i) ∧
      KeepsOutside s m dst (bitlen * (w * h / 8))

/-- R151: every pixel below `2^bitlen` is recovered from its bits in the planes. -/
def Obligations.PlanesRecoverPixels : Prop :=
  ∀ (s : State) (src dst : Buf) (w h bitlen : Nat), 8 ≤ w → w % 8 = 0 → 1 ≤ h → 1 ≤ bitlen →
    bitlen ≤ s.cfg.bitlenMax →
    Ready s.cfg src (w * h) dst (bitlen * (w * h / 8)) →
    (∀ j < w * h, (Memory.read s.mem (src.base + j)).toNat < 2 ^ bitlen) →
    ∃ t, exec (.splitplanes src dst w h bitlen) s = .next t ∧
      ∀ j < w * h,
        ∑ i ∈ Finset.range bitlen,
            ((Memory.read t.mem (dst.base + (i * (w * h / 8) + j / 8))).getLsbD (j % 8)).toNat * 2 ^ i =
          (Memory.read s.mem (src.base + j)).toNat

/-- R156 to R158: SPLITDOTS ends in DONE. Where pairs map, each sub-frame holds the byte of one pair that maps
there, whichever the free value chooses (log 6; the placement is R122's, the channels' places R91's, log 18);
where none maps, and outside, bytes keep their value. -/
def Obligations.SplitdotsPlacesPairs : Prop :=
  ∀ (s : State) (src dst : Buf) (w h n : Nat) (cm : ColorMatrix), PanelOk w h n →
    Ready s.cfg src (2 * w * h) dst (3 * (w * h / 2)) →
    ∃ m, exec (.splitdots src dst w h n cm) s = .next { doneWith s m with freeCount := s.freeCount + 1 } ∧
      (∀ k < 3, ∀ x y, Visited w h x y →
        ∃ x' y', Visited w h x' y' ∧ mapIndex x' y' w h n = mapIndex x y w h n ∧
          
          IsDotByte s.cfg (Memory.read m (dst.base + (k * (w * h / 2) + mapIndex x y w h n))) s.mem src w cm k x' y') ∧
      (∀ k < 3, ∀ idx < w * h / 2, (∀ x y, Visited w h x y → mapIndex x y w h n ≠ idx) →
        Memory.read m (dst.base + (k * (w * h / 2) + idx)) =
          Memory.read s.mem (dst.base + (k * (w * h / 2) + idx))) ∧
      KeepsOutside s m dst (3 * (w * h / 2))

/-- R126, R156, R157: for n = 16 every destination byte is written with the byte of the one pair that maps there
(the placement is R122's, the channels' places R91's, log 18). -/
def Obligations.SplitdotsSixteenIsExact : Prop :=
  ∀ (s : State) (src dst : Buf) (w h : Nat) (cm : ColorMatrix), PanelOk w h 16 →
    Ready s.cfg src (2 * w * h) dst (3 * (w * h / 2)) →
    ∃ m, exec (.splitdots src dst w h 16 cm) s = .next { doneWith s m with freeCount := s.freeCount + 1 } ∧
      (∀ k < 3, ∀ x y, Visited w h x y →
        IsDotByte s.cfg (Memory.read m (dst.base + (k * (w * h / 2) + mapIndex x y w h 16))) s.mem src w cm k x y) ∧
      ∀ o < 3 * (w * h / 2), ∃ k x y, k < 3 ∧ Visited w h x y ∧ o = k * (w * h / 2) + mapIndex x y w h 16

/-! ## Scale down -/

/-- R181, R182, R184, R186: SCALEDOWN_IDX, dimensions up to NARROW_MAX (the narrow variant, log 18). -/
def Obligations.ScaledownIdxResult : Prop :=
  ∀ (s : State) (src dst : Buf) (sw sh dw dh : Nat), sw ≤ s.cfg.narrowMax → sh ≤ s.cfg.narrowMax →
    dw ≤ s.cfg.narrowMax → dh ≤ s.cfg.narrowMax →
    ScaleDownOk sw sh dw dh → Ready s.cfg src (sw * sh) dst (dw * dh) →
    ScalesDown (exec (.scaledownIdx src dst sw sh dw dh) s) s src dst 1 sw sh dw dh

/-- R181, R182, R184, R187, R188: SCALEDOWN_PUP with 1-byte pixels, SCALEDOWN with a BPP of BPP_SET. -/
def Obligations.ScaledownResult : Prop :=
  ∀ (s : State) (src dst : Buf) (sw sh dw dh : Nat), ScaleDownOk sw sh dw dh →
    (Ready s.cfg src (sw * sh) dst (dw * dh) →
      ScalesDown (exec (.scaledownPup src dst sw sh dw dh) s) s src dst 1 sw sh dw dh) ∧
    ∀ bpp ∈ s.cfg.bppSet, Ready s.cfg src (sw * sh * bpp) dst (dw * dh * bpp) →
      ScalesDown (exec (.scaledown src dst sw sh dw dh bpp) s) s src dst bpp sw sh dw dh

/-- R183: majority, uniform block, a result among the four, one pair, two pairs. -/
def Obligations.PickProperties : Prop :=
  ∀ (ul ur ll lr v : Pixel) (q : Quadrant),
    (2 < [ul, ur, ll, lr].count v → pick ul ur ll lr q = v) ∧
    pick ul ur ll lr q ∈ [ul, ur, ll, lr] ∧
    ([ul, ur, ll, lr].count v = 2 → (∀ u ≠ v, [ul, ur, ll, lr].count u ≤ 1) → pick ul ur ll lr q = v) ∧
    ((∃ u ≠ v, [ul, ur, ll, lr].count u = 2 ∧ [ul, ur, ll, lr].count v = 2) → pick ul ur ll lr q = ul)

/-! ## Scale up -/

/-- R201 to R203, R205, R206: SCALEUP_IDX with 1-byte pixels, SCALEUP with a BPP of BPP_SET. The places of E0 to
E3 in the block (R202) are log 18. -/
def Obligations.ScaleupResult : Prop :=
  ∀ (s : State) (src dst : Buf) (sw sh : Nat), 1 ≤ sw → 1 ≤ sh →
    (Ready s.cfg src (sw * sh) dst (4 * sw * sh) →
      ScalesUp (exec (.scaleupIdx src dst sw sh) s) s src dst 1 sw sh) ∧
    ∀ bpp ∈ s.cfg.bppSet, Ready s.cfg src (sw * sh * bpp) dst (4 * sw * sh * bpp) →
      ScalesUp (exec (.scaleup src dst sw sh bpp) s) s src dst bpp sw sh

/-- R204 (a): a uniform source gives a uniform destination of double dimensions. -/
def Obligations.ScaleupKeepsUniform : Prop :=
  ∀ (s : State) (src dst : Buf) (sw sh bpp : Nat), 1 ≤ sw → 1 ≤ sh → bpp ∈ s.cfg.bppSet →
    Ready s.cfg src (sw * sh * bpp) dst (4 * sw * sh * bpp) →
    (∀ x < sw, ∀ y < sh, SamePx s.mem bpp (pxAddr src bpp sw x y) src.base) →
    ∃ t, exec (.scaleup src dst sw sh bpp) s = .next t ∧
      ∀ x < 2 * sw, ∀ y < 2 * sh, ∀ c < bpp,
        Memory.read t.mem (pxAddr dst bpp (2 * sw) x y + c) = Memory.read s.mem (src.base + c)

/-! ## Bilinear -/

/-- R221: the scaled image fits the canvas; at equal aspect ratios it is the canvas; and the document's example.
-/
def Obligations.ScaledSizeFits : Prop :=
  (∀ sw sh dw dh : Nat, 1 ≤ sw → 1 ≤ sh →
    scaledSize sw sh dw dh = fitSize sw sh dw dh ∧
    (scaledSize sw sh dw dh).1 ≤ dw ∧ (scaledSize sw sh dw dh).2 ≤ dh ∧
    (sw * dh = dw * sh → scaledSize sw sh dw dh = (dw, dh))) ∧
  scaledSize 100 50 100 100 = (100, 50)

/-- R222, R223: the machine's exact arithmetic is the rational value, floored for TRUNC, floored after adding
one half for NEAREST; the value is within the channel's range, so the clamp changes nothing. -/
def Obligations.InterpolationIsExact : Prop :=
  ∀ c00 c10 c01 c11 x y sw sh scw sch n : Nat, c00 < 2 ^ n → c10 < 2 ^ n → c01 < 2 ^ n → c11 < 2 ^ n →
    1 ≤ sw → 1 ≤ sh → 1 ≤ scw → 1 ≤ sch →
    let v := blend c00 c10 c01 c11 (fracAt x sw scw) (fracAt y sh sch)
    0 ≤ v ∧ v ≤ 2 ^ n - 1 ∧
      interpExact .trunc c00 c10 c01 c11 x y sw sh scw sch n = ⌊v⌋₊ ∧
      interpExact .nearest c00 c10 c01 c11 x y sw sh scw sch n = ⌊v + 1 / 2⌋₊

/-- R226 with R224, whatever the implementation's Interp: BILINEAR ends in DONE with every channel of every pixel of
the scaled image what Interp makes of the four enclosing source pixels (clamped to the channel's bits, log 8), the
border zero, the rest unchanged (the channels' places are R91's, log 18). -/
def Obligations.BilinearRunsInterp : Prop :=
  ∀ (s : State) (src dst : Buf) (sw sh dw dh : Nat), 1 ≤ sw → 1 ≤ sh → 1 ≤ dw → 1 ≤ dh →
    Ready s.cfg src (2 * sw * sh) dst (2 * dw * dh) →
    ∃ m, exec (.bilinear src dst sw sh dw dh) s = .next (doneWith s m) ∧
      (∀ scw sch, fitSize sw sh dw dh = (scw, sch) →
        (∀ x < scw, ∀ y < sch, ∀ p ∈ [(11, 5), (5, 6), (0, 5)],
          let c (px py : Nat) : Nat := field565 p.1 p.2 (pixel565 s.cfg s.mem src.base (py * sw + px))
          let value (f : Interp) : Nat :=
            f (c (lowAt x sw scw) (lowAt y sh sch)) (c (highAt x sw scw) (lowAt y sh sch))
              (c (lowAt x sw scw) (highAt y sh sch)) (c (highAt x sw scw) (highAt y sh sch))
              x y sw sh scw sch p.2
          let shown :=
            field565 p.1 p.2 (pixel565 s.cfg m dst.base (((dh - sch) / 2 + y) * dw + ((dw - scw) / 2 + x)))
          (s.cfg.interp = .exact → shown = value (interpExact s.cfg.bilinearRound)) ∧
            ∀ id, s.cfg.interp = .other id → shown = min (value (Config.freeInterp id)) (2 ^ p.2 - 1)) ∧
        ZeroBorder m dst 2 dw dh ((dw - scw) / 2) ((dh - sch) / 2) scw sch) ∧
      KeepsOutside s m dst (2 * dw * dh)

/-- R226 with the default Interp of R224 (exact; log 8): BILINEAR ends in DONE with every channel of every pixel of
the scaled image the rational interpolation made an integer as BILINEAR_ROUND says, the border zero, the rest
unchanged (the channels' places are R91's, log 18). -/
def Obligations.BilinearResult : Prop :=
  ∀ (s : State) (src dst : Buf) (sw sh dw dh : Nat), s.cfg.interp = .exact →
    1 ≤ sw → 1 ≤ sh → 1 ≤ dw → 1 ≤ dh →
    Ready s.cfg src (2 * sw * sh) dst (2 * dw * dh) →
    ∃ m, exec (.bilinear src dst sw sh dw dh) s = .next (doneWith s m) ∧
      (∀ scw sch, fitSize sw sh dw dh = (scw, sch) →
        (∀ x < scw, ∀ y < sch, ∀ p ∈ [(11, 5), (5, 6), (0, 5)],
          field565 p.1 p.2 (pixel565 s.cfg m dst.base (((dh - sch) / 2 + y) * dw + ((dw - scw) / 2 + x))) =
            rounded s.cfg (channelAt s.cfg s.mem src sw sh scw sch p.1 p.2 x y)) ∧
        ZeroBorder m dst 2 dw dh ((dw - scw) / 2) ((dh - sch) / 2) scw sch) ∧
      KeepsOutside s m dst (2 * dw * dh)

/-- R227 (a), (b), with the default Interp of R224: when the scaled size is the source size, the source is copied
unchanged into the canvas. -/
def Obligations.BilinearIdentity : Prop :=
  ∀ (s : State) (src dst : Buf) (sw sh dw dh : Nat), s.cfg.interp = .exact →
    1 ≤ sw → 1 ≤ sh → 1 ≤ dw → 1 ≤ dh →
    Ready s.cfg src (2 * sw * sh) dst (2 * dw * dh) → fitSize sw sh dw dh = (sw, sh) →
    ∃ m, exec (.bilinear src dst sw sh dw dh) s = .next (doneWith s m) ∧
      ∀ x < sw, ∀ y < sh, ∀ c < 2,
        Memory.read m (pxAddr dst 2 dw ((dw - sw) / 2 + x) ((dh - sh) / 2 + y) + c) =
          Memory.read s.mem (pxAddr src 2 sw x y + c)

/-- R224: which pixels are border, and so zero, does not depend on Interp, nor on any parameter. -/
def Obligations.BilinearBorderForAnyInterp : Prop :=
  ∀ (interp : Interp) (cfg : Config) (m : Memory) (src : Buf) (sw sh dw dh scw sch : Nat),
    fitSize sw sh dw dh = (scw, sch) →
    ∀ x < dw, ∀ y < dh, ¬ InImage ((dw - scw) / 2) ((dh - sch) / 2) scw sch x y → ∀ c < 2,
      bilinearByte interp cfg m src sw sh dw dh ((y * dw + x) * 2 + c) = 0

/-! ## Compositor -/

/-- R241, R244, R245: CENTER_IDX with 1-byte pixels, CENTER with a BPP of BPP_SET. -/
def Obligations.CenterResult : Prop :=
  ∀ (s : State) (src dst : Buf) (sw sh dw dh : Nat), CenterOk sw sh dw dh →
    (Ready s.cfg src (sw * sh) dst (dw * dh) →
      Centers (exec (.centerIdx src dst sw sh dw dh) s) s src dst 1 sw sh dw dh) ∧
    ∀ bpp ∈ s.cfg.bppSet, Ready s.cfg src (sw * sh * bpp) dst (dw * dh * bpp) →
      Centers (exec (.center src dst sw sh dw dh bpp) s) s src dst bpp sw sh dw dh
end

