-- ==== Sys2Proof/Laws/Memory.lean ====
section
/-! SUPPORT. Memory: what a read gives after a store, that a store keeps the canonical form and the address
space, and that a canonical memory is its reads. -/

namespace Sys2Proof.Machine

@[simp] theorem Memory.read_nil (a : Nat) : Memory.read [] a = 0 := rfl

theorem Memory.read_cons (k : Nat) (b : Byte) (m : Memory) (a : Nat) :
    Memory.read ((k, b) :: m) a = if k = a then b else Memory.read m a := rfl

/-- An address that is not listed holds 0. -/
theorem Memory.read_eq_zero {m : Memory} {a : Nat} (h : ∀ c ∈ m, c.1 ≠ a) : Memory.read m a = 0 := by
  induction m with
  | nil => rfl
  | cons c m ih =>
    rw [Memory.read_cons, if_neg (h c (by simp))]
    exact ih fun d hd => h d (by simp [hd])

theorem Memory.read_append_right {m n : Memory} {a : Nat} (h : ∀ c ∈ m, c.1 ≠ a) :
    Memory.read (m ++ n) a = Memory.read n a := by
  induction m with
  | nil => rfl
  | cons c m ih =>
    rw [List.cons_append, Memory.read_cons, if_neg (h c (by simp))]
    exact ih fun d hd => h d (by simp [hd])

theorem Memory.read_append_left {m n : Memory} {a : Nat} (h : ∀ c ∈ n, c.1 ≠ a) :
    Memory.read (m ++ n) a = Memory.read m a := by
  induction m with
  | nil => exact Memory.read_eq_zero h
  | cons c m ih => rw [List.cons_append, Memory.read_cons, Memory.read_cons, ih]

theorem Memory.read_filter {m : Memory} {p : Host.Cell → Bool} {a : Nat}
    (h : ∀ b, p (a, b) = true) : Memory.read (m.filter p) a = Memory.read m a := by
  induction m with
  | nil => rfl
  | cons c m ih =>
    obtain ⟨k, b⟩ := c
    by_cases hp : p (k, b) = true
    · rw [List.filter_cons_of_pos hp, Memory.read_cons, Memory.read_cons, ih]
    · rw [List.filter_cons_of_neg hp, ih, Memory.read_cons, if_neg]
      rintro rfl
      exact hp (h b)

/-- What the cells of a store list: addresses of the stored range, none of them 0. -/
theorem Memory.mem_cells {base : Nat} {f : Nat → Byte} {o n : Nat} {c : Host.Cell}
    (h : c ∈ Memory.cells base f o n) : base + o ≤ c.1 ∧ c.1 < base + o + n ∧ c.2 ≠ 0 := by
  induction n generalizing o with
  | zero => simp [Memory.cells] at h
  | succ n ih =>
    simp only [Memory.cells] at h
    split at h
    · have := ih h
      exact ⟨by omega, by omega, this.2.2⟩
    · rcases List.mem_cons.1 h with rfl | h
      · simp_all
      · have := ih h
        refine ⟨by omega, by omega, this.2.2⟩

theorem Memory.cells_pairwise (base : Nat) (f : Nat → Byte) (o n : Nat) :
    (Memory.cells base f o n).Pairwise (fun c d => c.1 < d.1) := by
  induction n generalizing o with
  | zero => simp [Memory.cells]
  | succ n ih =>
    simp only [Memory.cells]
    split
    · exact ih _
    · refine List.pairwise_cons.2 ⟨fun d hd => ?_, ih _⟩
      have := Memory.mem_cells hd
      simp only
      omega

theorem Memory.read_cells (base : Nat) (f : Nat → Byte) (o n i : Nat) (h : o ≤ i) (h' : i < o + n) :
    Memory.read (Memory.cells base f o n) (base + i) = f i := by
  induction n generalizing o with
  | zero => omega
  | succ n ih =>
    simp only [Memory.cells]
    rcases Nat.eq_or_lt_of_le h with rfl | hlt
    · split
      · rename_i h0
        rw [h0]
        exact Memory.read_eq_zero fun c hc => by have := Memory.mem_cells hc; omega
      · rw [Memory.read_cons, if_pos rfl]
    · split
      · exact ih _ hlt (by omega)
      · rw [Memory.read_cons, if_neg (by omega)]
        exact ih _ hlt (by omega)

/-- THE law of memory: a store puts its bytes at its addresses and leaves every other byte alone. -/
theorem Memory.read_store (m : Memory) (base len : Nat) (f : Nat → Byte) (a : Nat) :
    Memory.read (Memory.store m base len f) a =
      if base ≤ a ∧ a < base + len then f (a - base) else Memory.read m a := by
  unfold Memory.store
  rw [List.append_assoc]
  split
  · rename_i h
    rw [Memory.read_append_right, Memory.read_append_left]
    · obtain ⟨i, rfl⟩ : ∃ i, a = base + i := ⟨a - base, by omega⟩
      rw [Memory.read_cells _ _ _ _ _ (by omega) (by omega), Nat.add_sub_cancel_left]
    · intro c hc
      have := of_decide_eq_true (List.mem_filter.1 hc).2
      omega
    · intro c hc
      have := of_decide_eq_true (List.mem_filter.1 hc).2
      omega
  · rename_i h
    rcases Nat.lt_or_ge a base with hlt | hge
    · rw [← List.append_assoc, Memory.read_append_left, Memory.read_append_left]
      · exact Memory.read_filter fun b => by simpa using hlt
      · intro c hc
        have := Memory.mem_cells hc
        omega
      · intro c hc
        have := of_decide_eq_true (List.mem_filter.1 hc).2
        omega
    · rw [Memory.read_append_right, Memory.read_append_right]
      · exact Memory.read_filter fun b => by simp; omega
      · intro c hc
        have := Memory.mem_cells hc
        omega
      · intro c hc
        have := of_decide_eq_true (List.mem_filter.1 hc).2
        omega

theorem Memory.read_store_at {m : Memory} {base len : Nat} {f : Nat → Byte} {o : Nat} (h : o < len) :
    Memory.read (Memory.store m base len f) (base + o) = f o := by
  rw [Memory.read_store, if_pos (by omega), Nat.add_sub_cancel_left]

theorem Memory.read_store_outside {m : Memory} {base len : Nat} {f : Nat → Byte} {a : Nat}
    (h : ¬ (base ≤ a ∧ a < base + len)) : Memory.read (Memory.store m base len f) a = Memory.read m a := by
  rw [Memory.read_store, if_neg h]

/-- A store keeps the canonical form. -/
theorem Memory.store_wf {m : Memory} (h : m.wf) (base len : Nat) (f : Nat → Byte) :
    (Memory.store m base len f).wf := by
  refine ⟨?_, ?_⟩
  · unfold Memory.store
    refine List.pairwise_append.2 ⟨List.pairwise_append.2 ⟨h.1.filter _, Memory.cells_pairwise _ _ _ _, ?_⟩,
      h.1.filter _, ?_⟩
    · intro c hc d hd
      have h1 := of_decide_eq_true (List.mem_filter.1 hc).2
      have h2 := Memory.mem_cells hd
      omega
    · intro c hc d hd
      have h2 := of_decide_eq_true (List.mem_filter.1 hd).2
      rcases List.mem_append.1 hc with hc | hc
      · have h1 := of_decide_eq_true (List.mem_filter.1 hc).2
        omega
      · have h1 := Memory.mem_cells hc
        omega
  · intro c hc
    unfold Memory.store at hc
    rcases List.mem_append.1 hc with hc | hc
    · rcases List.mem_append.1 hc with hc | hc
      · exact h.2 c (List.mem_filter.1 hc).1
      · exact (Memory.mem_cells hc).2.2
    · exact h.2 c (List.mem_filter.1 hc).1

/-- A store inside the address space keeps memory inside it. -/
theorem Memory.store_inSpace {cfg : Config} {m : Memory} (h : m.inSpace cfg) {base len : Nat}
    (hb : base + len ≤ 2 ^ cfg.aw) (f : Nat → Byte) : (Memory.store m base len f).inSpace cfg := by
  intro c hc
  unfold Memory.store at hc
  rcases List.mem_append.1 hc with hc | hc
  · rcases List.mem_append.1 hc with hc | hc
    · exact h c (List.mem_filter.1 hc).1
    · have := Memory.mem_cells hc
      omega
  · exact h c (List.mem_filter.1 hc).1

/-- The memory after reset is canonical. -/
theorem Memory.wf_nil : Memory.wf [] := by simp [Memory.wf]

theorem Memory.read_of_mem {m : Memory} (h : m.wf) {c : Host.Cell} (hc : c ∈ m) :
    Memory.read m c.1 = c.2 := by
  obtain ⟨hp, hz⟩ := h
  induction m with
  | nil => simp at hc
  | cons d m ih =>
    obtain ⟨hd, hp⟩ := List.pairwise_cons.1 hp
    rcases List.mem_cons.1 hc with rfl | hc
    · rw [Memory.read_cons, if_pos rfl]
    · rw [Memory.read_cons, if_neg (by have := hd c hc; omega)]
      exact ih hc hp fun e he => hz e (by simp [he])

/-- Two canonical memories with the same bytes are the same data. -/
theorem Memory.ext_read {m n : Memory} (hm : m.wf) (hn : n.wf)
    (h : ∀ a, Memory.read m a = Memory.read n a) : m = n := by
  have sub : ∀ {p q : Memory}, p.wf → q.wf → (∀ a, Memory.read p a = Memory.read q a) → ∀ c ∈ p, c ∈ q := by
    intro p q hp hq e c hc
    have h1 : Memory.read q c.1 = c.2 := by rw [← e, Memory.read_of_mem hp hc]
    by_contra hne
    have : Memory.read q c.1 = 0 ∨ ∃ d ∈ q, d.1 = c.1 := by
      by_cases hx : ∃ d ∈ q, d.1 = c.1
      · exact .inr hx
      · exact .inl (Memory.read_eq_zero fun d hd hd' => hx ⟨d, hd, hd'⟩)
    rcases this with h0 | ⟨d, hd, hd'⟩
    · exact hp.2 c hc (by rw [← h1, h0])
    · have : Memory.read q d.1 = d.2 := Memory.read_of_mem hq hd
      exact hne (by
        have : c = d := Prod.ext hd'.symm (by rw [← h1, ← hd', this])
        rw [this]; exact hd)
  have hperm : m.Perm n := by
    have nd : ∀ {p : Memory}, p.wf → p.Nodup := fun hp => hp.1.imp fun hlt he => by
      rw [he] at hlt
      exact absurd hlt (lt_irrefl _)
    exact (List.perm_ext_iff_of_nodup (nd hm) (nd hn)).2 fun c =>
      ⟨sub hm hn h c, sub hn hm (fun a => (h a).symm) c⟩
  exact hperm.eq_of_pairwise (fun a b _ _ h1 h2 => absurd h1 (by omega)) hm.1 hn.1

end Sys2Proof.Machine
end

