-- ==== Sys2Proof/Laws/State.lean ====
section
/-! SUPPORT. One lemma per field of State per update, so that no proof unfolds a record update. -/

namespace Sys2Proof.Machine

@[simp] theorem State.takeFault_cfg (s : State) (c : Cause) : (s.takeFault c).cfg = s.cfg := rfl
@[simp] theorem State.takeFault_desc (s : State) (c : Cause) : (s.takeFault c).desc = s.desc := rfl
@[simp] theorem State.takeFault_written (s : State) (c : Cause) : (s.takeFault c).written = s.written := rfl
@[simp] theorem State.takeFault_status (s : State) (c : Cause) : (s.takeFault c).status = .fault := rfl
@[simp] theorem State.takeFault_cause (s : State) (c : Cause) : (s.takeFault c).cause = causeCode c := rfl
@[simp] theorem State.takeFault_result (s : State) (c : Cause) : (s.takeFault c).result = s.result := rfl
@[simp] theorem State.takeFault_mem (s : State) (c : Cause) : (s.takeFault c).mem = s.mem := rfl
@[simp] theorem State.takeFault_lent (s : State) (c : Cause) : (s.takeFault c).lent = s.lent := rfl
@[simp] theorem State.takeFault_readData (s : State) (c : Cause) :
    (s.takeFault c).readData = s.readData := rfl
@[simp] theorem State.takeFault_pending (s : State) (c : Cause) : (s.takeFault c).pending = s.pending := rfl
@[simp] theorem State.takeFault_freeCount (s : State) (c : Cause) :
    (s.takeFault c).freeCount = s.freeCount := rfl

@[simp] theorem State.clearFault_cfg (s : State) : (s.clearFault).cfg = s.cfg := rfl
@[simp] theorem State.clearFault_desc (s : State) : (s.clearFault).desc = s.desc := rfl
@[simp] theorem State.clearFault_written (s : State) : (s.clearFault).written = s.written := rfl
@[simp] theorem State.clearFault_status (s : State) : (s.clearFault).status = .idle := rfl
@[simp] theorem State.clearFault_cause (s : State) : (s.clearFault).cause = 0 := rfl
@[simp] theorem State.clearFault_result (s : State) : (s.clearFault).result = s.result := rfl
@[simp] theorem State.clearFault_mem (s : State) : (s.clearFault).mem = s.mem := rfl
@[simp] theorem State.clearFault_lent (s : State) : (s.clearFault).lent = s.lent := rfl
@[simp] theorem State.clearFault_readData (s : State) : (s.clearFault).readData = s.readData := rfl
@[simp] theorem State.clearFault_pending (s : State) : (s.clearFault).pending = s.pending := rfl
@[simp] theorem State.clearFault_freeCount (s : State) : (s.clearFault).freeCount = s.freeCount := rfl

@[simp] theorem State.finish_cfg (s : State) : (s.finish).cfg = s.cfg := rfl
@[simp] theorem State.finish_desc (s : State) : (s.finish).desc = s.desc := rfl
@[simp] theorem State.finish_written (s : State) : (s.finish).written = s.written := rfl
@[simp] theorem State.finish_status (s : State) : (s.finish).status = .done := rfl
@[simp] theorem State.finish_cause (s : State) : (s.finish).cause = 0 := rfl
@[simp] theorem State.finish_result (s : State) : (s.finish).result = s.result := rfl
@[simp] theorem State.finish_mem (s : State) : (s.finish).mem = s.mem := rfl
@[simp] theorem State.finish_lent (s : State) : (s.finish).lent = s.lent := rfl
@[simp] theorem State.finish_readData (s : State) : (s.finish).readData = s.readData := rfl
@[simp] theorem State.finish_pending (s : State) : (s.finish).pending = s.pending := rfl
@[simp] theorem State.finish_freeCount (s : State) : (s.finish).freeCount = s.freeCount := rfl

@[simp] theorem State.setResult_cfg (s : State) (v : Word) : (s.setResult v).cfg = s.cfg := rfl
@[simp] theorem State.setResult_desc (s : State) (v : Word) : (s.setResult v).desc = s.desc := rfl
@[simp] theorem State.setResult_written (s : State) (v : Word) : (s.setResult v).written = s.written := rfl
@[simp] theorem State.setResult_status (s : State) (v : Word) : (s.setResult v).status = s.status := rfl
@[simp] theorem State.setResult_cause (s : State) (v : Word) : (s.setResult v).cause = s.cause := rfl
@[simp] theorem State.setResult_result (s : State) (v : Word) : (s.setResult v).result = v := rfl
@[simp] theorem State.setResult_mem (s : State) (v : Word) : (s.setResult v).mem = s.mem := rfl
@[simp] theorem State.setResult_lent (s : State) (v : Word) : (s.setResult v).lent = s.lent := rfl
@[simp] theorem State.setResult_readData (s : State) (v : Word) :
    (s.setResult v).readData = s.readData := rfl
@[simp] theorem State.setResult_pending (s : State) (v : Word) : (s.setResult v).pending = s.pending := rfl
@[simp] theorem State.setResult_freeCount (s : State) (v : Word) :
    (s.setResult v).freeCount = s.freeCount := rfl

@[simp] theorem State.storeDst_cfg (s : State) (dst : Buf) (len : Nat) (f : Nat → Byte) :
    (s.storeDst dst len f).cfg = s.cfg := rfl
@[simp] theorem State.storeDst_desc (s : State) (dst : Buf) (len : Nat) (f : Nat → Byte) :
    (s.storeDst dst len f).desc = s.desc := rfl
@[simp] theorem State.storeDst_written (s : State) (dst : Buf) (len : Nat) (f : Nat → Byte) :
    (s.storeDst dst len f).written = s.written := rfl
@[simp] theorem State.storeDst_status (s : State) (dst : Buf) (len : Nat) (f : Nat → Byte) :
    (s.storeDst dst len f).status = s.status := rfl
@[simp] theorem State.storeDst_cause (s : State) (dst : Buf) (len : Nat) (f : Nat → Byte) :
    (s.storeDst dst len f).cause = s.cause := rfl
@[simp] theorem State.storeDst_result (s : State) (dst : Buf) (len : Nat) (f : Nat → Byte) :
    (s.storeDst dst len f).result = s.result := rfl
@[simp] theorem State.storeDst_mem (s : State) (dst : Buf) (len : Nat) (f : Nat → Byte) :
    (s.storeDst dst len f).mem = Memory.store s.mem dst.base len f := rfl
@[simp] theorem State.storeDst_lent (s : State) (dst : Buf) (len : Nat) (f : Nat → Byte) :
    (s.storeDst dst len f).lent = s.lent := rfl
@[simp] theorem State.storeDst_readData (s : State) (dst : Buf) (len : Nat) (f : Nat → Byte) :
    (s.storeDst dst len f).readData = s.readData := rfl
@[simp] theorem State.storeDst_pending (s : State) (dst : Buf) (len : Nat) (f : Nat → Byte) :
    (s.storeDst dst len f).pending = s.pending := rfl
@[simp] theorem State.storeDst_freeCount (s : State) (dst : Buf) (len : Nat) (f : Nat → Byte) :
    (s.storeDst dst len f).freeCount = s.freeCount := rfl

@[simp] theorem State.bumpFree_cfg (s : State) : (s.bumpFree).cfg = s.cfg := rfl
@[simp] theorem State.bumpFree_desc (s : State) : (s.bumpFree).desc = s.desc := rfl
@[simp] theorem State.bumpFree_written (s : State) : (s.bumpFree).written = s.written := rfl
@[simp] theorem State.bumpFree_status (s : State) : (s.bumpFree).status = s.status := rfl
@[simp] theorem State.bumpFree_cause (s : State) : (s.bumpFree).cause = s.cause := rfl
@[simp] theorem State.bumpFree_result (s : State) : (s.bumpFree).result = s.result := rfl
@[simp] theorem State.bumpFree_mem (s : State) : (s.bumpFree).mem = s.mem := rfl
@[simp] theorem State.bumpFree_lent (s : State) : (s.bumpFree).lent = s.lent := rfl
@[simp] theorem State.bumpFree_readData (s : State) : (s.bumpFree).readData = s.readData := rfl
@[simp] theorem State.bumpFree_pending (s : State) : (s.bumpFree).pending = s.pending := rfl
@[simp] theorem State.bumpFree_freeCount (s : State) : (s.bumpFree).freeCount = s.freeCount + 1 := rfl

@[simp] theorem State.setField_cfg (s : State) (f : Field) (v : Nat) : (s.setField f v).cfg = s.cfg := rfl
@[simp] theorem State.setField_desc (s : State) (f : Field) (v : Nat) :
    (s.setField f v).desc = writeField s.desc v f := rfl
@[simp] theorem State.setField_written (s : State) (f : Field) (v : Nat) :
    (s.setField f v).written = if f ∈ s.written then s.written else f :: s.written := rfl
@[simp] theorem State.setField_status (s : State) (f : Field) (v : Nat) :
    (s.setField f v).status = s.status := rfl
@[simp] theorem State.setField_cause (s : State) (f : Field) (v : Nat) :
    (s.setField f v).cause = s.cause := rfl
@[simp] theorem State.setField_result (s : State) (f : Field) (v : Nat) :
    (s.setField f v).result = s.result := rfl
@[simp] theorem State.setField_mem (s : State) (f : Field) (v : Nat) : (s.setField f v).mem = s.mem := rfl
@[simp] theorem State.setField_lent (s : State) (f : Field) (v : Nat) : (s.setField f v).lent = s.lent := rfl
@[simp] theorem State.setField_readData (s : State) (f : Field) (v : Nat) :
    (s.setField f v).readData = s.readData := rfl
@[simp] theorem State.setField_pending (s : State) (f : Field) (v : Nat) :
    (s.setField f v).pending = s.pending := rfl
@[simp] theorem State.setField_freeCount (s : State) (f : Field) (v : Nat) :
    (s.setField f v).freeCount = s.freeCount := rfl

/-- A field that a WRITE sets counts as written, and every field that did still does. -/
theorem State.mem_written_setField {s : State} {f g : Field} {v : Nat} :
    g ∈ (s.setField f v).written ↔ g = f ∨ g ∈ s.written := by
  rw [State.setField_written]
  split
  · exact ⟨.inr, fun h => h.elim (fun e => e ▸ ‹_›) id⟩
  · exact List.mem_cons

end Sys2Proof.Machine
end

