-- ==== Sys2Proof/Laws/Job.lean ====
section
/-! SUPPORT. The checks of START and the run of a command, each said once. -/

namespace Sys2Proof.Machine

/-- A command either faults, and then only STATE and CAUSE change, or has its effect and is DONE. -/
theorem runJob_cases {j : Job} {effect : State → State} {s t : State} (h : runJob j effect s = .next t) :
    (∃ c, j.fault s.cfg = some c ∧ t = s.takeFault c) ∨ (j.fault s.cfg = none ∧ t = (effect s).finish) := by
  unfold runJob at h
  split at h <;> cases h
  · exact .inl ⟨_, ‹_›, rfl⟩
  · exact .inr ⟨‹_›, rfl⟩

theorem runJob_of_fault {j : Job} {effect : State → State} {s : State} {c : Cause}
    (h : j.fault s.cfg = some c) : runJob j effect s = .next (s.takeFault c) := by
  unfold runJob
  rw [h]

theorem runJob_of_ok {j : Job} {effect : State → State} {s : State} (h : j.fault s.cfg = none) :
    runJob j effect s = .next (effect s).finish := by
  unfold runJob
  rw [h]

/-- A command always has a next state. -/
theorem runJob_next (j : Job) (effect : State → State) (s : State) : ∃ t, runJob j effect s = .next t := by
  unfold runJob
  split <;> exact ⟨_, rfl⟩

/-- All checks of R262 hold: what a command that is not refused may rely on. -/
theorem Job.fault_eq_none {cfg : Config} {j : Job} :
    j.fault cfg = none ↔
      j.pre = true ∧ (∀ u ∈ j.uses, u.inSpace cfg) ∧ (∀ u ∈ j.uses, u.longEnough) ∧
        ∀ d ∈ j.write, ∀ u ∈ j.reads, d.apart u := by
  unfold Job.fault
  split_ifs with h1 h2 h3 h4
  · exact iff_of_false (by simp) fun h => by simp [h1] at h
  · exact iff_of_true rfl ⟨by simpa using h1, h2, h3, h4⟩
  · exact iff_of_false (by simp) fun h => h4 h.2.2.2
  · exact iff_of_false (by simp) fun h => h3 h.2.2.1
  · exact iff_of_false (by simp) fun h => h2 h.2.1

theorem Job.fault_of_pre {cfg : Config} {j : Job} (h : j.pre = false) : j.fault cfg = some .param := by
  unfold Job.fault
  rw [if_pos h]

theorem Job.fault_of_space {cfg : Config} {j : Job} (h : j.pre = true)
    (hs : ¬ ∀ u ∈ j.uses, u.inSpace cfg) : j.fault cfg = some .bounds := by
  unfold Job.fault
  rw [if_neg (by simp [h]), if_pos hs]

theorem Job.fault_of_length {cfg : Config} {j : Job} (h : j.pre = true) (hs : ∀ u ∈ j.uses, u.inSpace cfg)
    (hl : ¬ ∀ u ∈ j.uses, u.longEnough) : j.fault cfg = some .bounds := by
  unfold Job.fault
  rw [if_neg (by simp [h]), if_neg (by simpa using hs), if_pos hl]

theorem Job.fault_of_overlap {cfg : Config} {j : Job} (h : j.pre = true) (hs : ∀ u ∈ j.uses, u.inSpace cfg)
    (hl : ∀ u ∈ j.uses, u.longEnough) (ho : ¬ ∀ d ∈ j.write, ∀ u ∈ j.reads, d.apart u) :
    j.fault cfg = some .overlap := by
  unfold Job.fault
  rw [if_neg (by simp [h]), if_neg (by simpa using hs), if_neg (by simpa using hl), if_pos ho]

/-- The faults a command can raise once its descriptor selects it (R261). -/
theorem Job.fault_range {cfg : Config} {j : Job} {c : Cause} (h : j.fault cfg = some c) :
    c = .param ∨ c = .bounds ∨ c = .overlap := by
  unfold Job.fault at h
  split_ifs at h <;> simp_all

/-- `apart` says what it is for: the needed bytes of the two buffers share no address (R62). -/
theorem Use.apart_iff {u v : Use} : u.apart v ↔ ∀ a, ¬ (u.covers a ∧ v.covers a) := by
  constructor
  · intro h a hc
    simp only [Use.apart, Use.covers] at h hc
    omega
  · intro h
    have h1 := h u.buf.base
    have h2 := h v.buf.base
    simp only [Use.apart, Use.covers] at *
    omega

end Sys2Proof.Machine
end

