-- ==== Sys2Proof/Laws/Exec.lean ====
section
/-! SUPPORT. Every command is one run of its checks and its effect, so that a proof over all commands needs
one case split over effects. -/

namespace Sys2Proof.Machine

/-- What a command does to the state when its checks hold. -/
def effectOf : Instr → State → State
  | .mapaddr x y sw sh nlr, s => s.setResult (BitVec.ofNat 32 (mapAddr x y sw sh nlr))
  | .idx2rgb24 src pal dst count, s => s.storeDst dst (3 * count) (idx2rgb24Byte s.mem src pal)
  | .splitplanes src dst sw sh bitlen, s =>
    s.storeDst dst (bitlen * planeSize sw sh)
      (fun o => planeByte s.mem src (o / planeSize sw sh) (o % planeSize sw sh))
  | .splitdots src dst sw sh nlr cm, s =>
    (s.storeDst dst (3 * subFrameSize sw sh)
      (splitdotsByte s.cfg s.freeCount s.mem src dst sw sh nlr cm)).bumpFree
  | .scaledownIdx src dst sw sh dw dh, s => scaleDown 1 src dst sw sh dw dh s
  | .scaledownPup src dst sw sh dw dh, s => scaleDown 1 src dst sw sh dw dh s
  | .scaledown src dst sw sh dw dh bpp, s => scaleDown bpp src dst sw sh dw dh s
  | .scaleupIdx src dst sw sh, s => scaleUp 1 src dst sw sh s
  | .scaleup src dst sw sh bpp, s => scaleUp bpp src dst sw sh s
  | .bilinear src dst sw sh dw dh, s =>
    s.storeDst dst (2 * dw * dh)
      (bilinearByte (interpOf s.cfg) s.cfg s.mem src sw sh dw dh)
  | .centerIdx src dst sw sh dw dh, s => centerFrame 1 src dst sw sh dw dh s
  | .center src dst sw sh dw dh bpp, s => centerFrame bpp src dst sw sh dw dh s

theorem exec_eq (i : Instr) (s : State) : exec i s = runJob (jobOf s.cfg i) (effectOf i) s := by
  cases i <;> rfl

/-- What an effect can change: RESULT and the free value counter, or the bytes of the command's write
buffer; nothing else. -/
theorem effectOf_cases (cfg : Config) (i : Instr) (s : State) :
    ((jobOf cfg i).write = none ∧ ∃ v, effectOf i s = s.setResult v) ∨
      ∃ dst need f n, (jobOf cfg i).write = some ⟨dst, need⟩ ∧
        effectOf i s = { s.storeDst dst need f with freeCount := n } := by
  cases i
  case mapaddr => exact .inl ⟨rfl, _, rfl⟩
  all_goals exact .inr ⟨_, _, _, _, rfl, rfl⟩

/-- A command always has a next state. -/
theorem exec_next (i : Instr) (s : State) : ∃ t, exec i s = .next t := by
  rw [exec_eq]
  exact runJob_next _ _ _

/-- One inversion for every command. -/
theorem exec_cases {i : Instr} {s t : State} (h : exec i s = .next t) :
    (∃ c, (jobOf s.cfg i).fault s.cfg = some c ∧ t = s.takeFault c) ∨
      ((jobOf s.cfg i).fault s.cfg = none ∧ t = (effectOf i s).finish) :=
  runJob_cases (exec_eq i s ▸ h)

/-- The write buffer of a command that passed its checks lies in the address space. -/
theorem write_inSpace {cfg : Config} {i : Instr} {u : Use} (h : (jobOf cfg i).fault cfg = none)
    (hu : (jobOf cfg i).write = some u) : u.buf.base + u.need ≤ 2 ^ cfg.aw := by
  obtain ⟨-, hs, hl, -⟩ := Job.fault_eq_none.1 h
  have hm : u ∈ (jobOf cfg i).uses := by simp [Job.uses, hu]
  have := hs u hm
  have := hl u hm
  simp only [Use.inSpace, Use.longEnough] at *
  omega

/-- No command changes the parameters, the descriptor, or what belongs to the host. -/
theorem exec_host {i : Instr} {s t : State} (h : exec i s = .next t) :
    t.cfg = s.cfg ∧ t.desc = s.desc ∧ t.written = s.written ∧ t.lent = s.lent ∧ t.readData = s.readData ∧
      t.pending = s.pending := by
  obtain ⟨c, -, rfl⟩ | ⟨-, rfl⟩ := exec_cases h
  · exact ⟨rfl, rfl, rfl, rfl, rfl, rfl⟩
  · obtain ⟨-, v, e⟩ | ⟨dst, need, f, n, -, e⟩ := effectOf_cases s.cfg i s <;> rw [e] <;>
      exact ⟨rfl, rfl, rfl, rfl, rfl, rfl⟩

end Sys2Proof.Machine
end

