-- ==== Sys2Proof/Laws/Frame.lean ====
section
/-! SUPPORT. Frames, canvases and pixels: which byte of a destination belongs to which pixel. -/

namespace Sys2Proof.Machine

theorem px_index_div {bpp w x y c : Nat} (hc : c < bpp) (hx : x < w) :
    ((y * w + x) * bpp + c) / bpp % w = x ∧ ((y * w + x) * bpp + c) / bpp / w = y ∧
      ((y * w + x) * bpp + c) % bpp = c := by
  have h1 : ((y * w + x) * bpp + c) / bpp = y * w + x := by
    rw [Nat.mul_comm, Nat.mul_add_div (by omega), Nat.div_eq_of_lt hc, Nat.add_zero]
  have h2 : (y * w + x) / w = y := by
    rw [Nat.mul_comm, Nat.mul_add_div (by omega), Nat.div_eq_of_lt hx, Nat.add_zero]
  have h3 : (y * w + x) % w = x := by
    rw [Nat.mul_comm, Nat.mul_add_mod, Nat.mod_eq_of_lt hx]
  refine ⟨by rw [h1, h3], by rw [h1, h2], ?_⟩
  rw [Nat.mul_comm, Nat.mul_add_mod, Nat.mod_eq_of_lt hc]

/-- The byte `c` of pixel (`x`, `y`) of a frame is byte `c` of that pixel. -/
theorem frameByte_at {bpp w x y c : Nat} (px : Nat → Nat → Pixel) (hc : c < bpp) (hx : x < w) :
    frameByte bpp w px ((y * w + x) * bpp + c) = (px x y).getD c 0 := by
  obtain ⟨h1, h2, h3⟩ := px_index_div (y := y) hc hx
  rw [frameByte, h1, h2, h3]

/-- Every offset of a frame is a byte of exactly one of its pixels. -/
theorem offset_of_px {bpp w h o : Nat} (ho : o < w * h * bpp) :
    o % bpp < bpp ∧ o / bpp % w < w ∧ o / bpp / w < h ∧
      o = (o / bpp / w * w + o / bpp % w) * bpp + o % bpp := by
  have hb : 0 < bpp := Nat.pos_of_ne_zero (by rintro rfl; simp at ho)
  have hw : 0 < w := Nat.pos_of_ne_zero (by rintro rfl; simp at ho)
  have h1 : o / bpp < w * h := Nat.div_lt_of_lt_mul (by rwa [Nat.mul_comm])
  refine ⟨Nat.mod_lt _ hb, Nat.mod_lt _ hw, Nat.div_lt_of_lt_mul h1, ?_⟩
  have e1 := Nat.div_add_mod (o / bpp) w
  have e2 := Nat.div_add_mod o bpp
  rw [Nat.mul_comm (o / bpp / w) w, e1, Nat.mul_comm, e2]

theorem px_offset_lt {bpp w h x y c : Nat} (hc : c < bpp) (hx : x < w) (hy : y < h) :
    (y * w + x) * bpp + c < w * h * bpp := by
  have h1 : y * w + x < w * h := by
    calc y * w + x < y * w + w := by omega
      _ = (y + 1) * w := by ring
      _ ≤ h * w := Nat.mul_le_mul_right _ hy
      _ = w * h := Nat.mul_comm _ _
  calc (y * w + x) * bpp + c < (y * w + x) * bpp + bpp := by omega
    _ = (y * w + x + 1) * bpp := by ring
    _ ≤ w * h * bpp := Nat.mul_le_mul_right _ h1

theorem canvasPx_inside {bpp ox oy iw ih x y : Nat} (px : Nat → Nat → Pixel) (hx : x < iw) (hy : y < ih) :
    canvasPx bpp ox oy iw ih px (ox + x) (oy + y) = px x y := by
  rw [canvasPx, if_pos (by omega), Nat.add_sub_cancel_left, Nat.add_sub_cancel_left]

theorem canvasPx_border {bpp ox oy iw ih x y c : Nat} (px : Nat → Nat → Pixel)
    (h : ¬ (ox ≤ x ∧ x < ox + iw ∧ oy ≤ y ∧ y < oy + ih)) :
    (canvasPx bpp ox oy iw ih px x y).getD c 0 = 0 := by
  rw [canvasPx, if_neg h]
  by_cases hc : c < bpp <;> simp [List.getD, hc]

@[simp] theorem framePx_length (m : Memory) (b : Buf) (bpp w x y : Nat) :
    (framePx m b bpp w x y).length = bpp := by simp [framePx]

theorem framePx_getD {m : Memory} {b : Buf} {bpp w x y c : Nat} (hc : c < bpp) :
    (framePx m b bpp w x y).getD c 0 = Memory.read m (b.base + ((y * w + x) * bpp + c)) := by
  simp [framePx, bufByte, List.getD, hc]

/-- Two pixels are equal when their bytes are (R12). -/
theorem framePx_eq_iff {m m' : Memory} {b b' : Buf} {bpp w w' x y x' y' : Nat} :
    framePx m b bpp w x y = framePx m' b' bpp w' x' y' ↔
      ∀ c < bpp, Memory.read m (b.base + ((y * w + x) * bpp + c)) =
        Memory.read m' (b'.base + ((y' * w' + x') * bpp + c)) := by
  simp [framePx, bufByte]

/-- `Pick` returns one of its four pixels (R183 (c)). -/
theorem pick_cases (ul ur ll lr : Pixel) (q : Quadrant) :
    pick ul ur ll lr q = ul ∨ pick ul ur ll lr q = ur ∨ pick ul ur ll lr q = ll ∨ pick ul ur ll lr q = lr := by
  unfold pick
  split_ifs <;> cases q <;> simp

/-- A corner of a scaled-up block is `e`, `d` or `f` (R204 (b)). -/
theorem cornerPx_cases (b d e f h : Pixel) (right lower : Bool) :
    cornerPx b d e f h right lower = e ∨ cornerPx b d e f h right lower = d ∨
      cornerPx b d e f h right lower = f := by
  unfold cornerPx
  cases right <;> cases lower <;> simp only <;> split_ifs <;> simp

/-- Whatever the Interp, a channel value fits its channel, so that repacking keeps the channels apart (R220). -/
theorem interpOf_lt (cfg : Config) (c00 c10 c01 c11 x y sw sh scw sch n : Nat) :
    interpOf cfg c00 c10 c01 c11 x y sw sh scw sch n < 2 ^ n := by
  have h := Nat.sub_one_lt (Nat.two_pow_pos n).ne'
  unfold interpOf
  split
  · exact (Nat.min_le_right _ _).trans_lt h
  · exact (Nat.min_le_right _ _).trans_lt h

end Sys2Proof.Machine
end

