-- ==== Sys2Proof/Laws/Host.lean ====
section
/-! SUPPORT. What each host action and the block's turn can do, each said once: a proof about a step takes it
apart with these and unfolds nothing. -/

namespace Sys2Proof.Machine

/-- No field is wider than a word, whatever the parameters. -/
theorem fieldWidth_le (cfg : Config) (f : Field) : fieldWidth cfg f ≤ 32 := by
  cases f <;> simp [fieldWidth, Config.addrWidth, Config.dimWidth]

/-- A WRITE that answers has set its field to some value the field can hold. -/
theorem hostWrite_cases {f : Field} {v : Nat} {s t : State} (h : hostWrite f v s = .next t) :
    s.status ≠ .busy ∧
      ((v < 2 ^ fieldWidth s.cfg f ∧ t = s.setField f v) ∨
        (2 ^ fieldWidth s.cfg f ≤ v ∧ ∃ u < 2 ^ fieldWidth s.cfg f, t = (s.setField f u).bumpFree)) := by
  unfold hostWrite at h
  split_ifs at h with h1 h2 <;> cases h
  · exact ⟨h1, .inl ⟨h2, rfl⟩⟩
  · exact ⟨h1, .inr ⟨by omega, _, Nat.mod_lt _ (Nat.two_pow_pos _), rfl⟩⟩

/-- A START that answers is without effect in FAULT, and hands over the command's extents otherwise. -/
theorem hostStart_cases {s t : State} (h : hostStart s = .next t) :
    (s.status = .fault ∧ t = s) ∨
      ((s.status = .idle ∨ s.status = .done) ∧
        t = { s with status := .busy, cause := 0, lent := commandExtents s ++ s.lent }) := by
  unfold hostStart at h
  split at h <;> cases h <;> simp [*]

theorem hostStart_of_ready {s : State} (hs : s.status = .idle ∨ s.status = .done) :
    hostStart s = .next { s with status := .busy, cause := 0, lent := commandExtents s ++ s.lent } := by
  unfold hostStart
  rcases hs with hs | hs <;> simp only [hs]

/-- A CLEAR that answers is without effect in IDLE, and the return from DONE or FAULT otherwise. -/
theorem hostClear_cases {s t : State} (h : hostClear s = .next t) :
    (s.status = .idle ∧ t = s) ∨ ((s.status = .done ∨ s.status = .fault) ∧ t = s.clearFault) := by
  unfold hostClear at h
  split at h <;> cases h <;> simp [*]

/-- A READ that answers changes what the host has read, and with the end of a command the extents. -/
theorem hostRead_cases {r : Reg} {s t : State} (h : hostRead r s = .next t) :
    (s.status = .busy → r = .status) ∧
      t = { s with readData := readReg s r, lent := if endSeen r s then [] else s.lent } := by
  unfold hostRead at h
  split_ifs at h with h1 <;> cases h <;> exact ⟨fun hb => by simpa [hb] using h1, by simp_all⟩

/-- A host store that answers is one of a byte that exists and is the host's. -/
theorem hostMemWrite_cases {a : Nat} {b : Byte} {s t : State} (h : hostMemWrite a b s = .next t) :
    a < 2 ^ s.cfg.aw ∧ ¬ storeForbidden s a ∧ t = { s with mem := Memory.store s.mem a 1 (fun _ => b) } := by
  unfold hostMemWrite at h
  split_ifs at h with h1 h2
  cases h
  exact ⟨by omega, h2, rfl⟩

/-- A host load that answers is one of a byte that exists and that the host may read. -/
theorem hostMemRead_cases {a : Nat} {s t : State} (h : hostMemRead a s = .next t) :
    a < 2 ^ s.cfg.aw ∧ ¬ loadForbidden s a ∧ t = { s with readData := (Memory.read s.mem a).setWidth 32 } := by
  unfold hostMemRead at h
  split_ifs at h with h1 h2
  cases h
  exact ⟨by omega, h2, rfl⟩

/-- The block's turn: it waits, runs the command of its descriptor, or faults for want of one. -/
theorem blockTurn_cases {s t : State} (h : blockTurn s = .next t) :
    (s.status ≠ .busy ∧ t = s) ∨
      (s.status = .busy ∧
        ((∃ i, fetch s = .ok i ∧ exec i s = .next t) ∨
          ∃ r, fetch s = .error r ∧ t = s.takeFault (rejectCause r))) := by
  unfold blockTurn at h
  split at h
  · split at h
    · exact .inr ⟨‹_›, .inl ⟨_, ‹_›, h⟩⟩
    · cases h
      exact .inr ⟨‹_›, .inr ⟨_, ‹_›, rfl⟩⟩
  all_goals
    cases h
    exact .inl ⟨by simp [*], rfl⟩

end Sys2Proof.Machine
end

