-- ==== Sys2Proof/Laws/PerInstr.lean ====
section
/-! SUPPORT. Per command: its descriptor selects it again (30_encoding R82, R84). The family is
`DescRoundTrip`; the serialised bytes are not its subject. -/

namespace Sys2Proof

@[simp] theorem fitsWord_iff {n : Nat} : fitsWord n = true ↔ n < 2 ^ 32 := decide_eq_true_iff

@[simp] theorem fitsAddr_iff {cfg : Config} {n : Nat} : fitsAddr cfg n = true ↔ n < 2 ^ cfg.addrWidth :=
  decide_eq_true_iff

@[simp] theorem fitsDim_iff {cfg : Config} {n : Nat} : fitsDim cfg n = true ↔ n < 2 ^ cfg.dimWidth :=
  decide_eq_true_iff

@[simp] theorem fitsNibble_iff {n : Nat} : fitsNibble n = true ↔ n < 2 ^ 4 := decide_eq_true_iff

@[simp] theorem fitsBuf_iff {cfg : Config} {b : Buf} :
    fitsBuf cfg b = true ↔ b.base < 2 ^ cfg.addrWidth ∧ b.len < 2 ^ 32 := by simp [fitsBuf]

@[simp] theorem fitsSize_iff {cfg : Config} {w h : Nat} :
    fitsSize cfg w h = true ↔ w < 2 ^ cfg.dimWidth ∧ h < 2 ^ cfg.dimWidth := by simp [fitsSize]

/-- An address that fits its field is read back from it. -/
@[simp] theorem addrOf_ofNat {cfg : Config} {n : Nat} (h : n < 2 ^ cfg.addrWidth) :
    addrOf cfg (BitVec.ofNat 32 n) = n := by
  have : 2 ^ cfg.addrWidth ≤ 2 ^ 32 := Nat.pow_le_pow_right (by decide) (Nat.min_le_right _ _)
  rw [addrOf, BitVec.toNat_ofNat, Nat.mod_eq_of_lt (h.trans_le this), Nat.mod_eq_of_lt h]

/-- A dimension that fits its field is read back from it. -/
@[simp] theorem dimOf_ofNat {cfg : Config} {n : Nat} (h : n < 2 ^ cfg.dimWidth) :
    dimOf cfg (BitVec.ofNat 16 n) = n := by
  have : 2 ^ cfg.dimWidth ≤ 2 ^ 16 := Nat.pow_le_pow_right (by decide) (Nat.min_le_right _ _)
  rw [dimOf, BitVec.toNat_ofNat, Nat.mod_eq_of_lt (h.trans_le this), Nat.mod_eq_of_lt h]

@[simp] theorem matrixOfBit_bitOfMatrix (cm : ColorMatrix) : matrixOfBit (bitOfMatrix cm) = cm := by
  cases cm <;> rfl

end Sys2Proof

namespace Sys2Proof.Laws.DescRoundTrip

/-- The descriptor of a well-formed command decodes to that command, whatever the parameters. -/
def Statement (i : Instr) : Prop :=
  ∀ cfg, WellFormed cfg i = true → decodeDesc cfg (descOfInstr i) = .ok i

theorem mapaddr (x y sw sh nlr : Nat) :
    Statement (.mapaddr x y sw sh nlr) := by
  intro cfg h
  simp [WellFormed] at h
  simp [decodeDesc, selectInstr, descOfInstr, reservedClear, opcode, zeroDesc, withSrcSize, Nat.mod_eq_of_lt, h]

theorem idx2rgb24 (src pal dst : Buf) (count : Nat) :
    Statement (.idx2rgb24 src pal dst count) := by
  intro cfg h
  simp [WellFormed] at h
  simp [decodeDesc, selectInstr, descOfInstr, reservedClear, opcode, zeroDesc, descWith, srcOf, dstOf, palOf, Nat.mod_eq_of_lt, h]

theorem splitplanes (src dst : Buf) (sw sh bitlen : Nat) :
    Statement (.splitplanes src dst sw sh bitlen) := by
  intro cfg h
  simp [WellFormed] at h
  simp [decodeDesc, selectInstr, descOfInstr, reservedClear, opcode, zeroDesc, descWith, srcOf, dstOf, withSrcSize, Nat.mod_eq_of_lt, h]

theorem splitdots (src dst : Buf) (sw sh nlr : Nat) (cm : ColorMatrix) :
    Statement (.splitdots src dst sw sh nlr cm) := by
  intro cfg h
  simp [WellFormed] at h
  simp [decodeDesc, selectInstr, descOfInstr, reservedClear, opcode, zeroDesc, descWith, srcOf, dstOf, withSrcSize, Nat.mod_eq_of_lt, h]

theorem scaledownIdx (src dst : Buf) (sw sh dw dh : Nat) :
    Statement (.scaledownIdx src dst sw sh dw dh) := by
  intro cfg h
  simp [WellFormed] at h
  simp [decodeDesc, selectInstr, descOfInstr, reservedClear, opcode, zeroDesc, descWith, srcOf, dstOf, withSrcSize, withDstSize, Nat.mod_eq_of_lt, h]

theorem scaledownPup (src dst : Buf) (sw sh dw dh : Nat) :
    Statement (.scaledownPup src dst sw sh dw dh) := by
  intro cfg h
  simp [WellFormed] at h
  simp [decodeDesc, selectInstr, descOfInstr, reservedClear, opcode, zeroDesc, descWith, srcOf, dstOf, withSrcSize, withDstSize, Nat.mod_eq_of_lt, h]

theorem scaledown (src dst : Buf) (sw sh dw dh bpp : Nat) :
    Statement (.scaledown src dst sw sh dw dh bpp) := by
  intro cfg h
  simp [WellFormed] at h
  simp [decodeDesc, selectInstr, descOfInstr, reservedClear, opcode, zeroDesc, descWith, srcOf, dstOf, withSrcSize, withDstSize, withBpp, Nat.mod_eq_of_lt, h]

theorem scaleupIdx (src dst : Buf) (sw sh : Nat) :
    Statement (.scaleupIdx src dst sw sh) := by
  intro cfg h
  simp [WellFormed] at h
  simp [decodeDesc, selectInstr, descOfInstr, reservedClear, opcode, zeroDesc, descWith, srcOf, dstOf, withSrcSize, Nat.mod_eq_of_lt, h]

theorem scaleup (src dst : Buf) (sw sh bpp : Nat) :
    Statement (.scaleup src dst sw sh bpp) := by
  intro cfg h
  simp [WellFormed] at h
  simp [decodeDesc, selectInstr, descOfInstr, reservedClear, opcode, zeroDesc, descWith, srcOf, dstOf, withSrcSize, withBpp, Nat.mod_eq_of_lt, h]

theorem bilinear (src dst : Buf) (sw sh dw dh : Nat) :
    Statement (.bilinear src dst sw sh dw dh) := by
  intro cfg h
  simp [WellFormed] at h
  simp [decodeDesc, selectInstr, descOfInstr, reservedClear, opcode, zeroDesc, descWith, srcOf, dstOf, withSrcSize, withDstSize, Nat.mod_eq_of_lt, h]

theorem centerIdx (src dst : Buf) (sw sh dw dh : Nat) :
    Statement (.centerIdx src dst sw sh dw dh) := by
  intro cfg h
  simp [WellFormed] at h
  simp [decodeDesc, selectInstr, descOfInstr, reservedClear, opcode, zeroDesc, descWith, srcOf, dstOf, withSrcSize, withDstSize, Nat.mod_eq_of_lt, h]

theorem center (src dst : Buf) (sw sh dw dh bpp : Nat) :
    Statement (.center src dst sw sh dw dh bpp) := by
  intro cfg h
  simp [WellFormed] at h
  simp [decodeDesc, selectInstr, descOfInstr, reservedClear, opcode, zeroDesc, descWith, srcOf, dstOf, withSrcSize, withDstSize, withBpp, Nat.mod_eq_of_lt, h]

end Sys2Proof.Laws.DescRoundTrip
end

