-- ==== Sys2Proof/Tests/Slice0.lean ====
section
/-! SUPPORT. Tests on single steps, every expected value taken from spec/ (95_test_vectors, or the worked
example of the rule named), and for every statement with hypotheses a witness that meets them. -/

namespace Sys2Proof.Tests

open Sys2Proof.Machine Sys2Proof.Claims

/-! ## Helpers -/

/-- A memory with these bytes, each list from its address on. -/
def memOf (parts : List (Nat × List Byte)) : Memory :=
  parts.foldl (fun m p => Memory.store m p.1 p.2.length (fun o => p.2.getD o 0)) []

/-- The descriptor of twelve words. -/
def descOf (ws : List Word) : Desc := (descOfWords ws).getD zeroDesc

/-- The block is BUSY with these words, over this memory. -/
def busy (ws : List Word) (m : Memory) : State :=
  { State.reset with desc := descOf ws, status := .busy, mem := m }

/-- Every field of the descriptor, and its reserved groups. -/
def everyField : List Field :=
  [.op, .rsvW0, .srcBase, .srcLen, .dstBase, .dstLen, .palBase, .palLen, .srcW, .srcH, .dstW, .dstH, .bpp, .cm,
    .rsvW9lo, .bitlen, .rsvW9hi, .nlr, .count, .x, .y]

theorem mem_everyField (f : Field) : f ∈ everyField := by cases f <;> decide

/-- The host has written these words, and is about to START them, over this memory. -/
def ready (ws : List Word) (m : Memory) : State :=
  { State.reset with desc := descOf ws, written := everyField, mem := m, pending := [.start] }

theorem ready_startable (ws : List Word) (m : Memory) : Startable (ready ws m) :=
  ⟨.inl rfl, rfl⟩

/-- The host is about to do these actions. -/
def hosting (as : List HostAction) : State := { State.reset with pending := as }

/-- STATE, CAUSE and RESULT after a step. -/
def ended : Host.Outcome State Fault Refusal → Option (Status × Nat × Nat)
  | .next t => some (t.status, t.cause.toNat, t.result.toNat)
  | _ => none

/-- The next state of a step. -/
def nextOf : Host.Outcome State Fault Refusal → Option State
  | .next t => some t
  | _ => none

/-- The refusal of a step. -/
def refusalOf : Host.Outcome State Fault Refusal → Option Refusal
  | .refused r => some r
  | _ => none

/-- STATE and the `n` bytes from `base` on after a step. -/
def left (base n : Nat) : Host.Outcome State Fault Refusal → Option (Status × List Byte)
  | .next t => some (t.status, (List.range n).map (fun o => Memory.read t.mem (base + o)))
  | _ => none

/-- Extents that lie one after the other are apart. -/
theorem apart_of_le {b c : Buf} {n k : Nat} (h : b.base + n ≤ c.base ∨ c.base + k ≤ b.base) :
    Apart b n c k := by
  rintro a ⟨h1, h2⟩
  simp only [InExtent] at h1 h2
  omega

/-- An extent of length 0 is apart from everything. -/
theorem apart_of_empty {b c : Buf} {k : Nat} : Apart b 0 c k := by
  rintro a ⟨h1, -⟩
  simp only [InExtent] at h1
  omega

/-! ## Well-formedness: each check refuses a term -/

theorem test_wf_accepts_largest :
    WellFormed Config.std (.center ⟨2 ^ 32 - 1, 2 ^ 32 - 1⟩ ⟨2 ^ 32 - 1, 2 ^ 32 - 1⟩ 65535 65535 65535 65535 15) = true := by
  decide

theorem test_wf_refuses_base :
    WellFormed Config.std (.scaleupIdx ⟨2 ^ 32, 1⟩ ⟨0, 1⟩ 1 1) = false := by decide

theorem test_wf_refuses_length :
    WellFormed Config.std (.centerIdx ⟨0, 1⟩ ⟨0, 2 ^ 32⟩ 1 1 1 1) = false := by decide

theorem test_wf_refuses_palette :
    WellFormed Config.std (.idx2rgb24 ⟨0, 1⟩ ⟨2 ^ 32, 768⟩ ⟨0, 3⟩ 1) = false := by decide

theorem test_wf_refuses_count :
    WellFormed Config.std (.idx2rgb24 ⟨0, 1⟩ ⟨0, 768⟩ ⟨0, 3⟩ (2 ^ 32)) = false := by decide

theorem test_wf_refuses_source_size :
    WellFormed Config.std (.scaledownPup ⟨0, 1⟩ ⟨0, 1⟩ 65536 2 1 1) = false ∧
      WellFormed Config.std (.scaledownIdx ⟨0, 1⟩ ⟨0, 1⟩ 2 65536 1 1) = false := by decide

theorem test_wf_refuses_canvas_size :
    WellFormed Config.std (.bilinear ⟨0, 1⟩ ⟨0, 1⟩ 1 1 65536 1) = false ∧
      WellFormed Config.std (.scaledown ⟨0, 1⟩ ⟨0, 1⟩ 2 2 1 65536 1) = false := by decide

theorem test_wf_refuses_coordinate : WellFormed Config.std (.mapaddr 65536 0 32 32 16) = false := by decide

theorem test_wf_refuses_rows : WellFormed Config.std (.splitdots ⟨0, 1⟩ ⟨0, 1⟩ 32 32 65536 .rgb) = false := by decide

theorem test_wf_refuses_nibbles :
    WellFormed Config.std (.splitplanes ⟨0, 1⟩ ⟨0, 1⟩ 8 1 16) = false ∧
      WellFormed Config.std (.scaleup ⟨0, 1⟩ ⟨0, 1⟩ 1 1 16) = false := by decide

/-! ## Decoding: words written out from 30_encoding R81, R84 -/

/-- 95, 2.1: the descriptor of its second row. -/
def mapaddrWords : List Word := [0x00000001, 0, 0, 0, 0, 0, 0, 0x00200080, 0, 0x00100000, 0, 0x00030005]

theorem test_decode_mapaddr :
    decodeBytes Config.std (bytesOfWords mapaddrWords) = .ok (.mapaddr 5 3 128 32 16, []) := by decide

/-- 95, program 1, step 1, with its bytes as the spec lists them. -/
theorem test_decode_idx2rgb24_bytes :
    decodeBytes Config.std
        ([0x02, 0, 0, 0, 0x00, 0x10, 0, 0, 0x04, 0, 0, 0, 0x00, 0x30, 0, 0, 0x0C, 0, 0, 0, 0x00, 0x20, 0, 0] ++
          [0x00, 0x03, 0, 0, 0, 0, 0, 0, 0, 0, 0, 0, 0, 0, 0, 0, 0x04, 0, 0, 0, 0, 0, 0, 0]) =
      .ok (.idx2rgb24 ⟨0x1000, 4⟩ ⟨0x2000, 768⟩ ⟨0x3000, 12⟩ 4, []) := by decide

/-- BITLEN is W9[11:8] (R81). -/
theorem test_decode_splitplanes :
    decodeBytes Config.std (bytesOfWords [0x00000003, 0x10, 8, 0x20, 2, 0, 0, 0x00010008, 0, 0x00000200, 0, 0]) =
      .ok (.splitplanes ⟨0x10, 8⟩ ⟨0x20, 2⟩ 8 1 2, []) := by decide

/-- CM is W9[4], NLR is W9[31:16] (R81); 95, program 4 with `cm=rbg`. -/
theorem test_decode_splitdots :
    decodeBytes Config.std (bytesOfWords
        [0x00000004, 0x00010000, 0x800, 0x00020000, 0x600, 0, 0, 0x00200020, 0, 0x00100010, 0, 0]) =
      .ok (.splitdots ⟨0x10000, 2048⟩ ⟨0x20000, 1536⟩ 32 32 16 .rbg, []) := by decide

theorem test_decode_scaledown_idx :
    decodeBytes Config.std (bytesOfWords [0x00000005, 0x10, 16, 0x20, 4, 0, 0, 0x00040004, 0x00020002, 0, 0, 0]) =
      .ok (.scaledownIdx ⟨0x10, 16⟩ ⟨0x20, 4⟩ 4 4 2 2, []) := by decide

/-- 95, program 2, step 2. -/
theorem test_decode_scaledown_pup :
    decodeBytes Config.std (bytesOfWords [0x00000006, 0x200, 0x10, 0x300, 9, 0, 0, 0x00040004, 0x00030003, 0, 0, 0]) =
      .ok (.scaledownPup ⟨0x200, 16⟩ ⟨0x300, 9⟩ 4 4 3 3, []) := by decide

/-- 95, 2.6. -/
theorem test_decode_scaledown :
    decodeBytes Config.std (bytesOfWords
        [0x00000007, 0, 0x10, 0x100, 0xC, 0, 0, 0x00020004, 0x00020003, 0x00000002, 0, 0]) =
      .ok (.scaledown ⟨0, 16⟩ ⟨0x100, 12⟩ 4 2 3 2 2, []) := by decide

/-- 95, program 2, step 1. -/
theorem test_decode_scaleup_idx :
    decodeBytes Config.std (bytesOfWords [0x00000008, 0x100, 4, 0x200, 0x10, 0, 0, 0x00020002, 0, 0, 0, 0]) =
      .ok (.scaleupIdx ⟨0x100, 4⟩ ⟨0x200, 16⟩ 2 2, []) := by decide

theorem test_decode_scaleup :
    decodeBytes Config.std (bytesOfWords [0x00000009, 0x100, 4, 0x200, 0x10, 0, 0, 0x00010002, 0, 2, 0, 0]) =
      .ok (.scaleup ⟨0x100, 4⟩ ⟨0x200, 16⟩ 2 1 2, []) := by decide

/-- 95, program 3, step 4. -/
theorem test_decode_bilinear :
    decodeBytes Config.std (bytesOfWords [0x0000000A, 0x500, 4, 0x600, 0x10, 0, 0, 0x00010002, 0x00020004, 0, 0, 0]) =
      .ok (.bilinear ⟨0x500, 4⟩ ⟨0x600, 16⟩ 2 1 4 2, []) := by decide

/-- 95, 2.10: CENTER_IDX 2×2 into 2×2. -/
theorem test_decode_center_idx :
    decodeBytes Config.std (bytesOfWords [0x0000000B, 0, 3, 0x100, 4, 0, 0, 0x00020002, 0x00020002, 0, 0, 0]) =
      .ok (.centerIdx ⟨0, 3⟩ ⟨0x100, 4⟩ 2 2 2 2, []) := by decide

/-- 95, program 1, step 2. -/
theorem test_decode_center :
    decodeBytes Config.std (bytesOfWords [0x0000000C, 0x3000, 0xC, 0x4000, 0x24, 0, 0, 0x00020002, 0x00030004, 3, 0, 0]) =
      .ok (.center ⟨0x3000, 12⟩ ⟨0x4000, 36⟩ 2 2 4 3 3, []) := by decide

/-- R85: 0x00, 0x0D and 0xFF are unassigned; R83: 47 bytes are no descriptor. -/
theorem test_decode_refuses :
    decodeBytes Config.std (bytesOfWords (List.replicate 12 0)) = .error (.illegalOp 0x00) ∧
      decodeBytes Config.std (bytesOfWords (0x0000010D :: List.replicate 11 0)) = .error (.illegalOp 0x0D) ∧
      decodeBytes Config.std (bytesOfWords (0x000000FF :: List.replicate 11 0)) = .error (.illegalOp 0xFF) ∧
      decodeBytes Config.std (List.replicate 47 1) = .error .truncated := by decide

/-- R86: each of the three reserved groups. -/
theorem test_decode_reserved :
    decodeBytes Config.std (bytesOfWords (0x80000001 :: List.replicate 11 0)) = .error .reservedBits ∧
      decodeBytes Config.std (bytesOfWords ([0x0B, 0, 0, 0, 0, 0, 0, 0, 0] ++ [0x00000020, 0, 0])) = .error .reservedBits ∧
      decodeBytes Config.std (bytesOfWords ([0x0B, 0, 0, 0, 0, 0, 0, 0, 0] ++ [0x00001000, 0, 0])) = .error .reservedBits := by
  decide

/-! ## MAPADDR (95, 2.1) -/

theorem test_mapaddr_result : ended (step (busy mapaddrWords [])) = some (.done, 0, 389) := by decide

/-- The rows of the table that tell the second matrix row, `n = 8` and `n = 2` apart. -/
theorem test_mapaddr_table :
    mapAddr 127 15 128 32 16 = 2047 ∧ mapAddr 33 17 128 64 16 = 417 ∧ mapAddr 100 40 128 64 16 = 2148 ∧
      mapAddr 5 3 32 32 8 = 197 ∧ mapAddr 31 15 32 32 8 = 479 ∧ mapAddr 0 0 64 64 2 = 512 ∧
      mapAddr 63 63 64 64 2 = 1343 := by decide

/-! ## IDX2RGB24 (R145, worked example) -/

theorem test_idx2rgb24 :
    left 0x900 7 (exec (.idx2rgb24 ⟨0x10, 2⟩ ⟨0x100, 768⟩ ⟨0x900, 7⟩ 2)
        { State.reset with
          mem := memOf [(0x10, [0x01, 0x0F]), (0x103, [0xFF, 0, 0]), (0x12D, [0x12, 0x34, 0x56]), (0x906, [0xEE])] }) =
      some (.done, [0xFF, 0, 0, 0x12, 0x34, 0x56, 0xEE]) := by decide

/-- 95, 2.2: COUNT 0 is legal even with the destination on the palette, but the palette is required whole. -/
theorem test_idx2rgb24_empty :
    ended (exec (.idx2rgb24 ⟨0, 0⟩ ⟨0x100, 768⟩ ⟨0x100, 0⟩ 0) State.reset) = some (.done, 0, 0) ∧
      ended (exec (.idx2rgb24 ⟨0, 0⟩ ⟨0x100, 767⟩ ⟨0x100, 0⟩ 0) State.reset) = some (.fault, 3, 0) := by decide

/-! ## Channels (95, 2.3) -/

theorem test_ch3 :
    ch3 Config.std 0x1234 .rgb = (2, 1, 4) ∧ ch3 Config.std 0xABCD .rgb = (5, 6, 5) ∧
      ch3 Config.std 0x1234 .rbg = (2, 4, 1) ∧
      ch3 { Config.std with ch3Select := .high3 } 0xABCD .rgb = (5, 3, 3) := by decide

theorem test_ch565 :
    ch565 0x1234 .rgb = (2, 17, 20) ∧ ch565 0xABCD .rbg = (21, 13, 30) ∧ pack565 31 0 0 = 0xF800 := by decide

/-! ## SPLITPLANES (R150, worked example) -/

theorem test_splitplanes :
    left 0x20 2 (exec (.splitplanes ⟨0, 8⟩ ⟨0x20, 2⟩ 8 1 2)
        { State.reset with mem := memOf [(0, [0, 1, 2, 3, 0, 0, 3, 1])] }) =
      some (.done, [0xCA, 0x4C]) := by decide

/-- BITLEN 0 and 9, and a width that is no multiple of 8 (95, 2.4). -/
theorem test_splitplanes_params :
    ended (exec (.splitplanes ⟨0, 8⟩ ⟨0x20, 16⟩ 8 1 0) State.reset) = some (.fault, 2, 0) ∧
      ended (exec (.splitplanes ⟨0, 8⟩ ⟨0x20, 16⟩ 8 1 9) State.reset) = some (.fault, 2, 0) ∧
      ended (exec (.splitplanes ⟨0, 12⟩ ⟨0x20, 16⟩ 12 1 2) State.reset) = some (.fault, 2, 0) := by decide

/-! ## SPLITDOTS (R156, worked example) -/

/-- The worked example: (5, 3) = 0x1234 and (5, 19) = 0xABCD give 15, 22, 0F at index 101, under Rbg 0E, 21, 17
(95, 2.5); for `n = 8` index 0 is hit by (0, 0) and (0, 8) alone, and index 480 by none, so its byte stays. -/
theorem test_splitdots :
    (let m := memOf [(202, [0x34, 0x12]), (1226, [0xCD, 0xAB]), (0x1000 + 480, [0xEE])]
      let byte (n : Nat) (cm : ColorMatrix) := splitdotsByte Config.std 0 m ⟨0, 2048⟩ ⟨0x1000, 1536⟩ 32 32 n cm
      [byte 16 .rgb 101, byte 16 .rgb 613, byte 16 .rgb 1125, byte 16 .rbg 101, byte 16 .rbg 613, byte 8 .rgb 480]) =
        [0x15, 0x22, 0x0F, 0x0E, 0x21, 0xEE] ∧
      pairsAt 32 32 8 0 = [(0, 0), (0, 8)] := by decide

/-- 95, 2.5: `nlr` 3, 0 and 1024, `sw` 48, and a source that is one byte short. -/
theorem test_splitdots_faults :
    ended (exec (.splitdots ⟨0, 2048⟩ ⟨0x1000, 1536⟩ 32 32 16 .rgb) State.reset) = some (.done, 0, 0) ∧
      ended (exec (.splitdots ⟨0, 2048⟩ ⟨0x1000, 1536⟩ 32 32 3 .rgb) State.reset) = some (.fault, 2, 0) ∧
      ended (exec (.splitdots ⟨0, 2048⟩ ⟨0x1000, 1536⟩ 32 32 0 .rgb) State.reset) = some (.fault, 2, 0) ∧
      ended (exec (.splitdots ⟨0, 2048⟩ ⟨0x1000, 1536⟩ 32 32 1024 .rgb) State.reset) = some (.fault, 2, 0) ∧
      ended (exec (.splitdots ⟨0, 9999⟩ ⟨0x9000, 9999⟩ 48 32 16 .rgb) State.reset) = some (.fault, 2, 0) ∧
      ended (exec (.splitdots ⟨0, 2047⟩ ⟨0x1000, 1536⟩ 32 32 16 .rgb) State.reset) = some (.fault, 3, 0) := by decide

/-! ## Scale down (95, 2.6) -/

/-- The block table: each case of R181, and the four fallbacks. -/
theorem test_pick :
    pick [1] [2] [2] [1] .lr = [1] ∧ pick [1] [2] [3] [2] .ul = [2] ∧ pick [1] [2] [3] [3] .ul = [3] ∧
      pick [3] [7] [7] [7] .ll = [7] ∧
      [Quadrant.ul, .ur, .ll, .lr].map (pick [1] [2] [3] [4]) = [[1], [2], [3], [4]] := by decide

/-- The 4×4 frame with all four fallbacks, into 3×3: the odd slack goes right and down. -/
theorem test_scaledown_idx :
    left 0x20 9 (exec (.scaledownIdx ⟨0, 16⟩ ⟨0x20, 9⟩ 4 4 3 3)
        { State.reset with
          mem := memOf [(0, [1, 2, 5, 6, 3, 4, 7, 8]), (8, [9, 10, 13, 14, 11, 12, 15, 16]), (0x24, [0xEE, 0xEE])] }) =
      some (.done, [1, 6, 0, 0x0B, 0x10, 0, 0, 0, 0]) := by decide

/-- A dimension of 256 is refused by the narrow variant alone. -/
theorem test_scaledown_narrow :
    ended (exec (.scaledownIdx ⟨0, 512⟩ ⟨0x1000, 128⟩ 256 2 128 1) State.reset) = some (.fault, 2, 0) ∧
      (jobOf Config.std (.scaledownPup ⟨0, 512⟩ ⟨0x1000, 128⟩ 256 2 128 1)).fault Config.std = none := by decide

/-- Program 2, step 2, in small: a uniform block gives its value. -/
theorem test_scaledown_pup :
    left 0x10 1 (exec (.scaledownPup ⟨0, 4⟩ ⟨0x10, 1⟩ 2 2 1 1)
        { State.reset with mem := memOf [(0, [7, 7, 7, 7])] }) = some (.done, [7]) := by decide

/-- `bpp = 2`: pixels are compared whole. -/
theorem test_scaledown :
    left 0x100 12 (exec (.scaledown ⟨0, 16⟩ ⟨0x100, 12⟩ 4 2 3 2 2)
        { State.reset with
          mem := memOf
            [(0, [0x11, 0x22, 0x11, 0x22, 0x33, 0x44, 0x55, 0x66]),
              (8, [0x77, 0x88, 0x99, 0xAA, 0x55, 0x66, 0xBB, 0xCC])] }) =
      some (.done, [0x11, 0x22, 0x55, 0x66, 0, 0, 0, 0, 0, 0, 0, 0]) := by decide

theorem test_scaledown_bpp :
    ended (exec (.scaledown ⟨0, 64⟩ ⟨0x100, 64⟩ 2 2 1 1 0) State.reset) = some (.fault, 2, 0) ∧
      ended (exec (.scaledown ⟨0, 64⟩ ⟨0x100, 64⟩ 2 2 1 1 4) State.reset) = some (.fault, 2, 0) := by decide

/-! ## Scale up (95, 2.7) -/

theorem test_scaleup_idx :
    left 0x20 24 (exec (.scaleupIdx ⟨0, 6⟩ ⟨0x20, 24⟩ 2 3)
        { State.reset with mem := memOf [(0, [1, 2, 2, 1, 1, 1])] }) =
      some (.done, [1, 1, 2, 2, 1, 2, 1, 2, 2, 2, 2, 1, 2, 2, 1, 1, 1, 1, 1, 1, 1, 1, 1, 1]) := by decide

/-- The centre pixel of the worked example of R205. -/
theorem test_scaleup_corner :
    [(false, false), (true, false), (false, true), (true, true)].map
        (fun p => cornerPx [1] [1] [2] [2] [3] p.1 p.2) = [[1], [2], [2], [2]] := by decide

theorem test_scaleup :
    left 0x20 16 (exec (.scaleup ⟨0, 4⟩ ⟨0x20, 16⟩ 2 1 2)
        { State.reset with mem := memOf [(0, [0x34, 0x12, 0xCD, 0xAB])] }) =
      some (.done, [0x34, 0x12, 0x34, 0x12, 0xCD, 0xAB, 0xCD, 0xAB] ++
        [0x34, 0x12, 0x34, 0x12, 0xCD, 0xAB, 0xCD, 0xAB]) := by decide

/-- `bpp = 5` PARAM; a destination one byte short BOUNDS. -/
theorem test_scaleup_faults :
    ended (exec (.scaleup ⟨0, 64⟩ ⟨0x100, 64⟩ 2 2 5) State.reset) = some (.fault, 2, 0) ∧
      ended (exec (.scaleupIdx ⟨0, 4⟩ ⟨0x100, 15⟩ 2 2) State.reset) = some (.fault, 3, 0) := by decide

/-! ## BILINEAR (95, 2.8) -/

/-- The worked example of R226. -/
theorem test_bilinear :
    left 0x20 16 (exec (.bilinear ⟨0, 4⟩ ⟨0x20, 16⟩ 2 1 4 2)
        { State.reset with mem := memOf [(2, [0xFF, 0xFF])] }) =
      some (.done, [0, 0, 0xE7, 0x39, 0xF7, 0xBD, 0xFF, 0xFF] ++ [0, 0, 0xE7, 0x39, 0xF7, 0xBD, 0xFF, 0xFF]) := by
  decide

/-- The row of 3×2 into 2×2: a border below, and a mean of three columns. And BILINEAR_ROUND = NEAREST of the
worked example: 0x4208 = (8, 16, 8) for `x = 1`. -/
theorem test_bilinear_border :
    left 0x20 8 (exec (.bilinear ⟨0, 12⟩ ⟨0x20, 8⟩ 3 2 2 2)
        { State.reset with
          mem := memOf [(0, [0, 0, 0x10, 0x84, 0xFF, 0xFF, 0, 0, 0x10, 0x84, 0xFF, 0xFF]), (0x26, [0xEE])] }) =
        some (.done, [0x04, 0x21, 0xFB, 0xDE, 0, 0, 0, 0]) ∧
      [(31, 5), (63, 6)].map (fun p => interpExact .nearest 0 p.1 0 p.1 1 0 2 1 4 2 p.2) = [8, 16] := by decide

/-! ## Center (95, 2.9) -/

theorem test_center_idx :
    left 0x20 20 (exec (.centerIdx ⟨0, 2⟩ ⟨0x20, 20⟩ 2 1 5 4)
        { State.reset with mem := memOf [(0, [1, 2]), (0x20, [0xEE])] }) =
      some (.done, [0, 0, 0, 0, 0, 0, 1, 2, 0, 0] ++ List.replicate 10 0) := by decide

theorem test_center :
    left 0x20 9 (exec (.center ⟨0, 3⟩ ⟨0x20, 9⟩ 1 1 3 1 3)
        { State.reset with mem := memOf [(0, [0x11, 0x22, 0x33])] }) =
      some (.done, [0, 0, 0, 0x11, 0x22, 0x33, 0, 0, 0]) := by decide

/-! ## Faults and their order (95, 2.10) -/

/-- OP before reserved bits, reserved bits before parameters. -/
theorem test_fault_order_decode :
    ended (step (busy (0x0000010D :: List.replicate 11 0) [])) = some (.fault, 1, 0) ∧
      ended (step (busy [0x101, 0, 0, 0, 0, 0, 0, 0x00200020, 0, 0x00100000, 0, 0] [])) = some (.fault, 2, 0) := by
  decide

/-- Parameters before bounds, bounds before overlap, and overlap on `need`, not on the length. -/
theorem test_fault_order_checks :
    ended (step (busy [0xB, 0, 0, 0, 0, 0, 0, 0x00020002, 0x00010001, 0, 0, 0] [])) = some (.fault, 2, 0) ∧
      ended (step (busy [0xB, 0x100, 4, 0x100, 3, 0, 0, 0x00020002, 0x00020002, 0, 0, 0] [])) = some (.fault, 3, 0) ∧
      ended (step (busy [0xB, 0x100, 4, 0x100, 4, 0, 0, 0x00020002, 0x00020002, 0, 0, 0] [])) = some (.fault, 4, 0) ∧
      ended (step (busy [0xB, 0x100, 8, 0x104, 4, 0, 0, 0x00020002, 0x00020002, 0, 0, 0] [])) = some (.done, 0, 0) := by
  decide

/-- A buffer may end at the last byte of memory and no later. -/
theorem test_fault_space :
    ended (step (busy [0xB, 0xFFFFFFFF, 2, 0x100, 1, 0, 0, 0x00010001, 0x00010001, 0, 0, 0] [])) =
        some (.fault, 3, 0) ∧
      ended (step (busy [0xB, 0xFFFFFFFF, 1, 0x100, 1, 0, 0, 0x00010001, 0x00010001, 0, 0, 0] [])) =
        some (.done, 0, 0) := by decide

/-- A destination on the palette's last byte, and just after it. -/
theorem test_fault_palette :
    (jobOf Config.std (.idx2rgb24 ⟨0, 1⟩ ⟨0x1000, 0x300⟩ ⟨0x12FD, 3⟩ 1)).fault Config.std = some .overlap ∧
      (jobOf Config.std (.idx2rgb24 ⟨0, 1⟩ ⟨0x1000, 0x300⟩ ⟨0x1300, 3⟩ 1)).fault Config.std = none := by decide

/-! ## Host actions (10_state R26, R27, R30) -/

/-- 95, program 3, step 2: START has no effect in FAULT; CLEAR then gives IDLE and CAUSE 0. -/
theorem test_sticky_fault :
    nextOf (step { hosting [.start, .clear] with status := .fault, cause := 3 }) =
        some { hosting [.clear] with status := .fault, cause := 3 } ∧
      nextOf (step { hosting [.clear] with status := .fault, cause := 3 }) = some State.reset := by decide

/-- START hands over the extents; the host gets them back when it has read STATUS (R295). -/
theorem test_start_lends :
    (nextOf (step (ready [0x8, 0x100, 1, 0x200, 4, 0, 0, 0x00010001, 0, 0, 0, 0] []))).map
        (fun t => (t.status, t.lent)) =
      some (.busy, [⟨0x100, 1, false⟩, ⟨0x200, 4, true⟩]) := by decide

theorem test_write_read :
    nextOf (step (hosting [.write .op 0x0C])) =
        some { State.reset with desc := { State.reset.desc with op := 0x0C }, written := [.op] } ∧
      nextOf (step (hosting [.read .status])) = some State.reset := by decide

/-- A WRITE too wide for its field goes on: the other fields keep their values (R21, R26; log 13). -/
theorem test_write_too_wide :
    (nextOf (step (hosting [.write .cm 2]))).map (fun t => (t.status, t.written, t.desc.op, t.desc.nlr)) =
      some (.idle, [.cm], 0, 0) := by decide

/-- A START of fields nothing has written goes on with what D holds (log 25): from reset, with the OP that stands
there; and the words of MAPADDR, not written by the host, still make the block BUSY. -/
theorem test_start_unwritten :
    (nextOf (step (hosting [.start]))).map (fun t => t.status) = some .busy ∧
      (nextOf (step { ready mapaddrWords [] with written := [] })).map (fun t => (t.status, t.written)) =
        some (.busy, []) := by decide

/-- R294: while BUSY the host may not even load a source byte; R295: afterwards it may, but not a destination
byte, until it has read DONE. A READ of STATUS that shows IDLE, or a CLEAR, gives nothing back. -/
theorem test_lent :
    let b := { busy [0x8, 0x100, 1, 0x200, 4, 0, 0, 0x00010001, 0, 0, 0, 0] [] with
      lent := [⟨0x100, 1, false⟩, ⟨0x200, 4, true⟩], pending := [.memRead 0x100] }
    refusalOf (step b) = some (.bufferLent 0x100) ∧
      (nextOf (step { b with status := .done })).isSome ∧
      refusalOf (step { b with status := .done, pending := [.memRead 0x203] }) = some (.bufferLent 0x203) ∧
      [(Status.done, HostAction.read .status), (.idle, .read .status), (.done, .clear), (.done, .read .result)].map
          (fun p => (nextOf (step { b with status := p.1, pending := [p.2] })).map (fun t => t.lent.length)) =
        [some 0, some 2, some 2, some 2] := by decide

/-- R30: a RESET while BUSY keeps the byte before the destination extent, which a command that would fault has
too (here an overlap). -/
theorem test_reset_busy :
    let b := { busy [0x8, 0x200, 1, 0x200, 4, 0, 0, 0x00010001, 0, 0, 0, 0] (memOf [(0x1FF, [7])]) with
      pending := [.reset] }
    left 0x1FF 1 (step b) = some (.idle, [7]) ∧ runningDst b = some ⟨⟨0x200, 4⟩, 4⟩ := by decide

/-- R224: with another Interp BILINEAR completes too, and its border is zero. -/
theorem test_other_interp :
    let cfg := { Config.std with interp := .other 3 }
    ended (exec (.bilinear ⟨0, 12⟩ ⟨0x20, 8⟩ 3 2 2 2) { State.reset with cfg := cfg }) = some (.done, 0, 0) ∧
      bilinearByte (interpOf cfg) cfg [] ⟨0, 12⟩ 3 2 2 2 5 = 0 := by decide

/-- R8: other parameters. DIM_BITS 8 reads the low 8 bits of a dimension (log 24), RGB565_BYTE_ORDER big and
BILINEAR_ROUND nearest change BILINEAR's bytes, BITLEN_MAX 4 refuses five planes, and AW 8 ends memory at 0x100. -/
theorem test_parameters :
    decodeDesc { Config.std with dimBits := 8 } (descOf mapaddrWords) = .ok (.mapaddr 5 3 128 32 16) ∧
      WellFormed { Config.std with dimBits := 4 } (.mapaddr 5 3 128 32 16) = false ∧
      left 0x20 4 (exec (.bilinear ⟨0, 4⟩ ⟨0x20, 16⟩ 2 1 4 2)
          { State.reset with
            cfg := { Config.std with byteOrder := .big, bilinearRound := .nearest }, mem := memOf [(2, [0xFF, 0xFF])] }) =
        some (.done, [0, 0, 0x42, 0x08]) ∧
      ended (exec (.splitplanes ⟨0, 8⟩ ⟨0x20, 16⟩ 8 1 5)
          { State.reset with cfg := { Config.std with bitlenMax := 4 } }) = some (.fault, 2, 0) ∧
      ended (exec (.scaleupIdx ⟨0x100, 1⟩ ⟨0, 4⟩ 1 1)
          { State.reset with cfg := { Config.std with aw := 8 } }) = some (.fault, 3, 0) := by decide

theorem test_reset_idle :
    (nextOf (step { hosting [.reset] with status := .fault, cause := 4 })).map (fun t => (t.status, t.cause)) =
      some (.idle, 0) := by decide

/-- Memory stays canonical: writing 0 removes the entry. -/
theorem test_memory_canonical :
    memOf [(5, [1, 2]), (3, [7])] = [(3, 7), (5, 1), (6, 2)] ∧ memOf [(5, [1, 2]), (5, [0])] = [(6, 2)] := by decide

/-- The very next step runs the placed command (log 10). -/
theorem test_fetch_word :
    ended (step (State.reset.withFetchWord 384
        0x000300050000000000100000000000000020008000000000000000000000000000000000000000000000000000000001)) =
        some (.done, 0, 389) ∧
      decodeTableWord 8 11 = some (.centerIdx ⟨0, 0⟩ ⟨0, 0⟩ 0 0 0 0) := by decide

/-! ## Witnesses: for each statement with hypotheses, a case that meets them -/

/-- A 1×1 image into a 1×1 canvas at 0x200, correct in everything (95, 2.7). -/
def scaleupWords : List Word := [0x8, 0x100, 1, 0x200, 4, 0, 0, 0x00010001, 0, 0, 0, 0]

theorem test_witness_DecodeInvertsEncode :
    WellFormed Config.std (.splitdots ⟨2 ^ 32 - 1, 0⟩ ⟨0, 2 ^ 32 - 1⟩ 65535 0 65535 .rbg) = true := by decide

theorem test_witness_SerialisationIsFaithful :
    takeDesc (List.replicate 48 0 ++ [7]) = some (zeroDesc, [7]) := by decide

theorem test_witness_DecodedCommandIsWellFormed :
    decodeBytes Config.std (bytesOfWords mapaddrWords ++ [1, 2]) = .ok (.mapaddr 5 3 128 32 16, [1, 2]) := by decide

/-- OP 0x00, 0x0D and 0xFF; and the assigned ends 0x01 and 0x0C, whose START ends somewhere. -/
theorem test_witness_UnassignedOpFaults :
    (∀ op ∈ [(0x00 : Word), 0x0D, 0xFF], Startable (ready (op :: List.replicate 11 0) []) ∧
      let o := (ready (op :: List.replicate 11 0) []).desc.op
      o = 0x00 ∨ 0x0D ≤ o.toNat) ∧
    ∀ op ∈ [(0x01 : Word), 0x0C], Startable (ready (op :: List.replicate 11 0) []) ∧
      (0x01 ≤ (ready (op :: List.replicate 11 0) []).desc.op.toNat ∧
        (ready (op :: List.replicate 11 0) []).desc.op.toNat ≤ 0x0C) ∧
      ∃ t, StartEnds (ready (op :: List.replicate 11 0) []) t := by
  refine ⟨?_, ?_⟩
  · intro op h
    fin_cases h <;> exact ⟨ready_startable _ _, by decide⟩
  · intro op h
    fin_cases h <;> exact ⟨ready_startable _ _, by decide, _, _, rfl, rfl⟩

/-- One reserved bit at each end of the three groups. -/
theorem test_witness_ReservedBitsFault :
    ∀ w ∈ [((0x101 : Word), (0 : Word)), (0x8000000C, 0), (1, 0x20), (1, 0x80), (0xC, 0x1000), (0xC, 0x8000)],
      let s := ready [w.1, 0, 0, 0, 0, 0, 0, 0, 0, w.2, 0, 0] []
      Startable s ∧ 0x01 ≤ s.desc.op.toNat ∧ s.desc.op.toNat ≤ 0x0C ∧
        (s.desc.rsvW0 ≠ 0 ∨ s.desc.rsvW9lo ≠ 0 ∨ s.desc.rsvW9hi ≠ 0) := by
  intro w h
  fin_cases h <;> exact ⟨ready_startable _ _, by decide, by decide, by decide⟩

theorem test_witness_FaultEntryKeepsTheRest :
    ∃ t, Startable (ready (List.replicate 12 0) [(9, 9)]) ∧ StartEnds (ready (List.replicate 12 0) [(9, 9)]) t ∧
      t.status = .fault := ⟨_, ready_startable _ _, ⟨_, rfl, rfl⟩, rfl⟩

/-- DST_W is no field of SCALEUP_IDX (R87). -/
theorem test_witness_UnusedFieldsAreIgnored :
    let s := busy scaleupWords (memOf [(0x100, [5])])
    s.pending = [] ∧ s.status = .busy ∧ Field.dstW ∉ usedFields s.desc.op.toNat ∧ (nextOf (step s)).isSome := by
  decide

theorem test_witness_StepRunsDecodedCommand :
    let s := busy mapaddrWords []
    let s2 := { s with pending := [.wait, .clear] }
    BlocksTurn s s ∧ BlocksTurn s2 { s with pending := [.clear] } ∧ s.status = .busy ∧ s2.status = .busy ∧
      decodeBytes s.cfg (bytesOfWords (wordsOfDesc s.desc)) = .ok (.mapaddr 5 3 128 32 16, []) :=
  ⟨.inl ⟨rfl, rfl⟩, .inr ⟨_, rfl, rfl⟩, rfl, rfl, by decide⟩

/-- From IDLE and from DONE; alone, before a READ, and before the block's turn; with no field written. -/
theorem test_witness_StartIsOneTransition :
    let s := { ready mapaddrWords [] with written := [] }
    ((s.status = .idle ∨ s.status = .done) ∧ NextAction s .start []) ∧
      ({ s with status := .done }.status = .idle ∨ { s with status := .done }.status = .done) ∧
      NextAction { s with pending := [.start, .read .status] } .start [.read .status] ∧
      NextAction { s with pending := [.start, .wait] } .start (.wait :: []) ∧
      decodeDesc s.cfg s.desc = .ok (.mapaddr 5 3 128 32 16) :=
  ⟨⟨.inl rfl, rfl⟩, .inr rfl, rfl, rfl, by decide⟩

/-- A next state, a fault and a refusal. -/
theorem test_witness_WrittenRecordChangesNothing :
    (nextOf (step (ready mapaddrWords []))).isSome ∧
      (∃ f, step (hosting [.memRead (2 ^ 32)]) = .fault f) ∧
      refusalOf (step { busy mapaddrWords [] with pending := [.start] }) = some .startWhileBusy :=
  ⟨by decide, ⟨_, rfl⟩, by decide⟩

/-- A WRITE, and a RESET of a written field. -/
theorem test_witness_WrittenRecordsTheHost :
    (nextOf (step (hosting [.write .cm 1]))).map (fun t => t.written) = some [.cm] ∧
      (nextOf (step { hosting [.reset] with written := [.cm] })).map (fun t => t.written) = some [] := by decide

theorem test_witness_FaultIsSticky :
    ({ hosting [.read .cause] with status := .fault, cause := 3 }).status = .fault ∧
      (nextOf (step { hosting [.read .cause] with status := .fault, cause := 3 })).isSome ∧
      (∀ rest, (hosting [.read .cause]).pending ≠ .clear :: rest ∧
        (hosting [.read .cause]).pending ≠ .reset :: rest) ∧
      (hosting [.start, .wait]).pending = .start :: [.wait] ∧ (hosting [.clear]).pending = .clear :: [] :=
  ⟨rfl, by decide, fun _ => ⟨by simp [hosting], by simp [hosting]⟩, rfl, rfl⟩

theorem test_witness_ClearLeavesDone :
    NextAction (hosting [.clear]) .clear [] ∧ (hosting [.clear]).status = .idle ∧
      { hosting [.clear] with status := .done }.status = .done := ⟨rfl, rfl, rfl⟩

/-- The largest value of the widest and of the narrowest field, and the first that is too large. -/
theorem test_witness_WriteSetsOneField :
    NextAction (hosting [.write .srcBase (2 ^ 32 - 1)]) (.write .srcBase (2 ^ 32 - 1)) [] ∧
      (hosting [.write .srcBase (2 ^ 32 - 1)]).status ≠ .busy ∧
      2 ^ 32 - 1 < 2 ^ fieldWidth State.reset.cfg .srcBase ∧ 1 < 2 ^ fieldWidth State.reset.cfg .cm ∧
      2 ^ fieldWidth State.reset.cfg .cm ≤ 2 := by
  refine ⟨rfl, ?_, ?_, ?_, ?_⟩ <;> decide

theorem test_witness_ReadReturnsRegister :
    NextAction (hosting [.read (.field .nlr)]) (.read (.field .nlr)) [] ∧
      (hosting [.read (.field .nlr)]).status ≠ .busy := ⟨rfl, by decide⟩

theorem test_witness_ResetAction :
    NextAction { busy scaleupWords [] with pending := [.reset] } .reset [] ∧
      (hosting [.reset]).status ≠ .busy ∧
      ∀ i, selectInstr Config.std (busy scaleupWords []).desc = some i →
        ∀ d ∈ targets i, ¬ InExtent d.1 d.2 0x204 := by
  refine ⟨rfl, by decide, fun i h => ?_⟩
  rw [show selectInstr Config.std (busy scaleupWords []).desc = some (.scaleupIdx ⟨0x100, 1⟩ ⟨0x200, 4⟩ 1 1) by
    decide] at h
  cases h
  simp [targets, InExtent]

theorem test_witness_BusyRefusesTheHost :
    (busy scaleupWords []).status = .busy ∧
      NextAction { busy scaleupWords [] with pending := [.write .x 1, .wait] } (.write .x 1) [.wait] ∧
      NextAction { busy scaleupWords [] with pending := [.read .cause, .wait] } (.read .cause) [.wait] :=
  ⟨rfl, rfl, rfl⟩

/-- START of SCALEUP_IDX; then the first source byte, and the last destination byte. -/
theorem test_witness_BuffersAreTheBlocksUntilRead :
    let s := ready scaleupWords []
    let i := Instr.scaleupIdx ⟨0x100, 1⟩ ⟨0x200, 4⟩ 1 1
    (∃ t, (s.status = .idle ∨ s.status = .done) ∧ NextAction s .start [] ∧ selectInstr s.cfg s.desc = some i ∧
      step s = .next t ∧
      (∀ e ∈ t.lent, e ∈ { t with pending := [.memWrite 0x100 7] }.lent) ∧
      ∀ e ∈ t.lent, e ∈ { t with pending := [.memRead 0x203] }.lent) ∧
    InExtent ⟨0x100, 1⟩ 1 0x100 ∧ (⟨0x100, 1⟩, 1) ∈ sources i ++ targets i ∧
    InExtent ⟨0x200, 4⟩ 4 0x203 ∧ (⟨0x200, 4⟩, 4) ∈ targets i ∧
    InUse { busy scaleupWords [] with pending := [.memRead 0x100] } 0x100 ∧
    (({ hosting [.read .status] with status := .done }).status = .done ∧
      (nextOf (step { hosting [.read .status] with status := .done })).isSome) :=
  ⟨⟨_, .inl rfl, rfl, by decide, rfl, fun _ h => h, fun _ h => h⟩, by simp [InExtent], by decide,
    by simp [InExtent], by decide,
    ⟨rfl, .scaleupIdx ⟨0x100, 1⟩ ⟨0x200, 4⟩ 1 1, by decide, (⟨0x100, 1⟩, 1), by decide, by simp [InExtent]⟩,
    rfl, by decide⟩

/-- A READ of CAUSE, and a READ of STATUS that shows IDLE. -/
theorem test_witness_LentStaysUntilReadOrReset :
    let s := { hosting [.read .cause] with status := .done, lent := [⟨0, 1, true⟩] }
    let s2 := { hosting [.read .status] with lent := [⟨0, 1, true⟩] }
    ((nextOf (step s)).isSome ∧ (∀ rest, ¬ NextAction s .reset rest) ∧
      ∀ rest, ¬ NextAction s (.read .status) rest) ∧
    (nextOf (step s2)).isSome ∧ s2.status ≠ .done ∧ s2.status ≠ .fault ∧ ⟨0, 1, true⟩ ∈ s2.lent := by
  refine ⟨⟨by decide, ?_, ?_⟩, by decide, by decide, by decide, by decide⟩ <;> simp [NextAction, hosting]

/-- The last byte of memory, all the rest being lent; and a load from a lent source. -/
theorem test_witness_HostOwnsItsMemory :
    let s := { hosting [.memWrite (2 ^ 32 - 1) 9] with lent := [⟨0, 2 ^ 32 - 1, true⟩] }
    let s2 := { hosting [.memRead 5] with status := .done, lent := [⟨0, 9, false⟩] }
    (2 ^ 32 - 1 < 2 ^ s.cfg.aw ∧ ¬ InUse s (2 ^ 32 - 1) ∧ NextAction s (.memWrite (2 ^ 32 - 1) 9) [] ∧
      ∀ e ∈ s.lent, ¬ (e.base ≤ 2 ^ 32 - 1 ∧ 2 ^ 32 - 1 < e.base + e.len)) ∧
    5 < 2 ^ s2.cfg.aw ∧ ¬ InUse s2 5 ∧ NextAction s2 (.memRead 5) [] ∧
      ∀ e ∈ s2.lent, e.isDst = true → ¬ (e.base ≤ 5 ∧ 5 < e.base + e.len) := by
  refine ⟨⟨by decide, ?_, rfl, ?_⟩, by decide, ?_, rfl, ?_⟩ <;> simp [InUse, hosting, State.reset]

theorem test_witness_NoMemoryBeyondTheSpace :
    NextAction (hosting [.memWrite (2 ^ 32) 9]) (.memWrite (2 ^ 32) 9) [] ∧
      NextAction (hosting [.memRead (2 ^ 32)]) (.memRead (2 ^ 32)) [] := ⟨rfl, rfl⟩

theorem test_witness_BlockWaitsForStart :
    BlocksTurn (hosting [.wait]) State.reset ∧ (hosting [.wait]).status ≠ .busy := ⟨.inr ⟨_, rfl, rfl⟩, by decide⟩

theorem test_witness_LegalActionContinues :
    State.reset.pending = [] ∧ (hosting [.write .cm 1]).pending = .write .cm 1 :: [] ∧
      LegalAction (hosting [.write .cm 1]) (.write .cm 1) :=
  ⟨rfl, rfl, by simp [LegalAction, hosting, State.reset]⟩

/-- START of a command whose fields are all written. -/
theorem test_witness_LegalActionContinues_start :
    (ready mapaddrWords []).pending = .start :: [] ∧ LegalAction (ready mapaddrWords []) .start :=
  ⟨rfl, by decide, fun _ f _ => mem_everyField f⟩

/-- The invariant holds with a byte listed and a field written, in FAULT, and the machine goes on. -/
theorem test_witness_StepKeepsInv :
    let s := { hosting [.memWrite 7 1] with
      mem := [(5, 1), (2 ^ 32 - 1, 2)], status := .fault, cause := 4, written := everyField }
    MachineInv s ∧ (nextOf (step s)).isSome := by
  refine ⟨⟨?_, ?_, ⟨?_, ?_⟩, ?_⟩, by decide⟩
  · decide
  · decide
  · intro h; exact absurd rfl h
  · intro _; exact ⟨.overlap, rfl⟩
  · decide

theorem test_witness_ConfigNeverChanges :
    (nextOf (step { hosting [.reset] with cfg := { Config.std with dimBits := 8 } })).isSome := by decide

theorem test_witness_ResultOnlyFromMapaddr :
    ∃ t, step (busy mapaddrWords []) = .next t ∧ t.result ≠ (busy mapaddrWords []).result := ⟨_, rfl, by decide⟩

theorem test_witness_DescriptorOnlyFromHost :
    ∃ t, step (hosting [.write .cm 1]) = .next t ∧ t.desc ≠ (hosting [.write .cm 1]).desc := ⟨_, rfl, by decide⟩

theorem test_witness_BlockWritesOnlyItsTarget :
    let s := busy scaleupWords (memOf [(0x100, [5])])
    BlocksTurn s s ∧ ∃ t, step s = .next t ∧ Memory.read t.mem 0x203 ≠ Memory.read s.mem 0x203 :=
  ⟨.inl ⟨rfl, rfl⟩, _, rfl, by decide⟩

/-- One command for each clause: a parameter, an ill-formed buffer, a short buffer, an overlap of one byte, and
none of them. -/
theorem test_witness_ChecksDecideTheFault :
    ¬ params Config.std (.scaleupIdx ⟨0, 0⟩ ⟨0, 0⟩ 0 1) ∧
    (params Config.std (.scaleupIdx ⟨2 ^ 32 - 1, 2⟩ ⟨0, 4⟩ 1 1) ∧ ¬ SpaceOk Config.std (.scaleupIdx ⟨2 ^ 32 - 1, 2⟩ ⟨0, 4⟩ 1 1)) ∧
    (params Config.std (.scaleupIdx ⟨2 ^ 32 - 1, 1⟩ ⟨0, 3⟩ 1 1) ∧ SpaceOk Config.std (.scaleupIdx ⟨2 ^ 32 - 1, 1⟩ ⟨0, 3⟩ 1 1) ∧
      ¬ LengthOk (.scaleupIdx ⟨2 ^ 32 - 1, 1⟩ ⟨0, 3⟩ 1 1)) ∧
    (params Config.std (.scaleupIdx ⟨3, 1⟩ ⟨0, 4⟩ 1 1) ∧ SpaceOk Config.std (.scaleupIdx ⟨3, 1⟩ ⟨0, 4⟩ 1 1) ∧
      LengthOk (.scaleupIdx ⟨3, 1⟩ ⟨0, 4⟩ 1 1) ∧ ¬ ApartOk (.scaleupIdx ⟨3, 1⟩ ⟨0, 4⟩ 1 1)) ∧
    (params Config.std (.scaleupIdx ⟨4, 1⟩ ⟨0, 4⟩ 1 1) ∧ SpaceOk Config.std (.scaleupIdx ⟨4, 1⟩ ⟨0, 4⟩ 1 1) ∧
      LengthOk (.scaleupIdx ⟨4, 1⟩ ⟨0, 4⟩ 1 1) ∧ ApartOk (.scaleupIdx ⟨4, 1⟩ ⟨0, 4⟩ 1 1)) := by
  refine ⟨by simp [params], ⟨by simp [params], ?_⟩, ⟨by simp [params], ?_, ?_⟩, ⟨by simp [params], ?_, ?_, ?_⟩,
    ⟨by simp [params], ?_, ?_, ?_⟩⟩
  case _ : ¬ ApartOk _ =>
    intro h
    exact h _ (List.mem_singleton_self _) _ (List.mem_singleton_self _) 3 (by simp [InExtent])
  case _ : ApartOk _ =>
    intro d hd p hp
    simp only [targets, sources, List.mem_singleton] at hd hp
    subst hd hp
    exact apart_of_le (by decide)
  all_goals simp [SpaceOk, LengthOk, sources, targets, Config.std]

theorem test_witness_CommandFrame :
    ∃ t, exec (.mapaddr 5 3 128 32 16) State.reset = .next t ∧
      ∀ d ∈ targets (.mapaddr 5 3 128 32 16), ¬ InExtent d.1 d.2 0 := ⟨_, rfl, by simp [targets]⟩

/-- Two states that agree on the source byte alone. -/
theorem test_witness_OutcomeFromOperandsAndSources :
    let i := Instr.scaleupIdx ⟨0x100, 1⟩ ⟨0x200, 4⟩ 1 1
    let s := { State.reset with mem := memOf [(0x100, [5])] }
    let s' := { State.reset with mem := memOf [(0x100, [5, 6]), (0x200, [7])], result := 9, status := .fault, cause := 2 }
    (∃ t, exec i s = .next t ∧ t.status = .done) ∧ (∃ t, exec i s' = .next t) ∧
      ∀ p ∈ sources i, ∀ a, InExtent p.1 p.2 a → Memory.read s.mem a = Memory.read s'.mem a := by
  refine ⟨⟨_, rfl, rfl⟩, ⟨_, rfl⟩, ?_⟩
  intro p hp a ha
  simp only [sources, List.mem_singleton] at hp
  subst hp
  simp only [InExtent] at ha
  rw [show a = 0x100 by omega]
  decide

theorem test_witness_CommandIdentities :
    1 ∈ State.reset.cfg.bppSet ∧ 255 ≤ State.reset.cfg.narrowMax ∧ ScaleDownPre 254 2 127 1 := by decide

/-- The worked example, and the largest panel the fields hold, at its last pixel. -/
theorem test_witness_MapaddrResult :
    (PanelOk 128 32 16 ∧ 5 < 128 ∧ 3 < 32) ∧
      PanelOk 65504 65504 512 ∧ 65503 < 65504 ∧ (65504 : Nat) < 2 ^ 16 := by
  refine ⟨?_, ?_⟩ <;> simp [PanelOk]

theorem test_witness_MapAddrInRange : PanelOk 32 32 1 ∧ 31 < 32 := by simp [PanelOk]

theorem test_witness_MapAddrBijectiveForSixteen :
    PanelOk 32 64 16 ∧ Visited 32 64 31 47 ∧ mapAddr 31 47 32 64 16 = mapAddr 31 47 32 64 16 ∧
      32 * 64 / 2 - 1 < 32 * 64 / 2 := by
  refine ⟨?_, ?_, rfl, by decide⟩ <;> simp [PanelOk, Visited]

theorem test_witness_MapAddrForgets :
    5 % (512 / 8) = 5 % (512 / 8) ∧ 3 % 8 = 11 % 8 ∧ 3 / 32 = 11 / 32 := by decide

theorem test_witness_ThreeBitChannels :
    Config.std.ch3Select = .low3 ∧ { Config.std with ch3Select := .high3 }.ch3Select = .high3 := ⟨rfl, rfl⟩

theorem test_witness_Rgb565ByteOrder :
    Config.std.byteOrder = .little ∧ { Config.std with byteOrder := .big }.byteOrder = .big := ⟨rfl, rfl⟩

/-- Five pixels; and none, with the destination on the palette. -/
theorem test_witness_Idx2rgb24Expands :
    (BufOk Config.std ⟨0x10, 5⟩ 5 ∧ BufOk Config.std ⟨0x100, 768⟩ 768 ∧ BufOk Config.std ⟨0x900, 15⟩ 15 ∧
      Apart ⟨0x900, 15⟩ (3 * 5) ⟨0x10, 5⟩ 5 ∧ Apart ⟨0x900, 15⟩ (3 * 5) ⟨0x100, 768⟩ 768) ∧
    BufOk Config.std ⟨0, 0⟩ 0 ∧ BufOk Config.std ⟨0x100, 0⟩ (3 * 0) ∧ Apart ⟨0x100, 0⟩ (3 * 0) ⟨0x100, 768⟩ 768 := by
  refine ⟨⟨?_, ?_, ?_, apart_of_le (by decide), apart_of_le (by decide)⟩, ?_, ?_, apart_of_empty⟩ <;> simp [BufOk, Config.std]

theorem test_witness_SplitplanesSplits :
    8 ≤ Config.std.bitlenMax ∧ Ready Config.std ⟨0, 8⟩ (8 * 1) ⟨8, 8⟩ (8 * (8 * 1 / 8)) :=
  ⟨by decide, by simp [BufOk, Config.std], by simp [BufOk, Config.std], apart_of_le (by decide)⟩

theorem test_witness_PlanesRecoverPixels :
    let s := { State.reset with mem := memOf [(0, [0, 1, 2, 3, 0, 0, 3, 1])] }
    2 ≤ s.cfg.bitlenMax ∧ Ready s.cfg ⟨0, 8⟩ (8 * 1) ⟨0x20, 2⟩ (2 * (8 * 1 / 8)) ∧
      ∀ j < 8 * 1, (Memory.read s.mem ((⟨0, 8⟩ : Buf).base + j)).toNat < 2 ^ 2 := by
  refine ⟨by decide, ⟨by simp [BufOk, State.reset, Config.std], by simp [BufOk, State.reset, Config.std],
    apart_of_le (by decide)⟩, by decide⟩

/-- `n = 8`: a visited pixel, and index 480, to which none maps. -/
theorem test_witness_SplitdotsPlacesPairs :
    PanelOk 32 32 8 ∧ Ready Config.std ⟨0, 2048⟩ (2 * 32 * 32) ⟨0x1000, 1536⟩ (3 * (32 * 32 / 2)) ∧ Visited 32 32 31 15 ∧
      480 < 32 * 32 / 2 ∧ ∀ x y, Visited 32 32 x y → mapIndex x y 32 32 8 ≠ 480 := by
  refine ⟨by simp [PanelOk], ⟨by simp [BufOk, Config.std], by simp [BufOk, Config.std], apart_of_le (by decide)⟩, by simp [Visited],
    by decide, fun x y h => ?_⟩
  simp only [Visited] at h
  simp only [mapIndex]
  omega

theorem test_witness_SplitdotsSixteenIsExact :
    PanelOk 64 32 16 ∧ Ready Config.std ⟨0, 4096⟩ (2 * 64 * 32) ⟨0x1000, 3072⟩ (3 * (64 * 32 / 2)) ∧ Visited 64 32 63 15 :=
  ⟨by simp [PanelOk], ⟨by simp [BufOk, Config.std], by simp [BufOk, Config.std], apart_of_le (by decide)⟩, by simp [Visited]⟩

/-- The largest even source the narrow variant takes, and an odd canvas. -/
theorem test_witness_ScaledownIdxResult :
    255 ≤ Config.std.narrowMax ∧ ScaleDownOk 254 254 255 255 ∧ Ready Config.std ⟨0, 64516⟩ (254 * 254) ⟨0x10000, 65025⟩ (255 * 255) :=
  ⟨by decide, by simp [ScaleDownOk], by simp [BufOk, Config.std], by simp [BufOk, Config.std], apart_of_le (by decide)⟩

theorem test_witness_ScaledownResult :
    ScaleDownOk 512 2 256 1 ∧ Ready Config.std ⟨0, 1024⟩ (512 * 2) ⟨0x1000, 256⟩ (256 * 1) ∧
      3 ∈ Config.std.bppSet ∧ Ready Config.std ⟨0, 3072⟩ (512 * 2 * 3) ⟨0x1000, 768⟩ (256 * 1 * 3) :=
  ⟨by simp [ScaleDownOk], ⟨by simp [BufOk, Config.std], by simp [BufOk, Config.std], apart_of_le (by decide)⟩, by decide,
    by simp [BufOk, Config.std], by simp [BufOk, Config.std], apart_of_le (by decide)⟩

/-- Three equal, one pair, two pairs. -/
theorem test_witness_PickProperties :
    2 < List.count ([7] : Pixel) [[3], [7], [7], [7]] ∧
    (List.count ([5] : Pixel) [[1], [5], [2], [5]] = 2 ∧
      ∀ u ≠ ([5] : Pixel), List.count u [[1], [5], [2], [5]] ≤ 1) ∧
    ∃ u ≠ ([2] : Pixel), List.count u [[1], [2], [2], [1]] = 2 ∧
      List.count ([2] : Pixel) [[1], [2], [2], [1]] = 2 := by
  refine ⟨by decide, ⟨by decide, fun u hu => ?_⟩, [1], by decide, by decide, by decide⟩
  simp only [List.count_cons, List.count_nil, beq_iff_eq]
  by_cases h1 : ([1] : Pixel) = u
  · subst h1
    decide
  · simp only [h1, Ne.symm hu, if_false]
    split <;> decide

theorem test_witness_ScaleupResult :
    Ready Config.std ⟨0, 6⟩ (2 * 3) ⟨0x20, 24⟩ (4 * 2 * 3) ∧ 1 ∈ Config.std.bppSet ∧ Ready Config.std ⟨0, 6⟩ (2 * 3 * 1) ⟨0x20, 24⟩ (4 * 2 * 3 * 1) :=
  ⟨⟨by simp [BufOk, Config.std], by simp [BufOk, Config.std], apart_of_le (by decide)⟩, by decide,
    by simp [BufOk, Config.std], by simp [BufOk, Config.std], apart_of_le (by decide)⟩

/-- Two equal pixels of two bytes. -/
theorem test_witness_ScaleupKeepsUniform :
    let s := { State.reset with mem := memOf [(0, [1, 2, 1, 2])] }
    2 ∈ Config.std.bppSet ∧ Ready Config.std ⟨0, 4⟩ (2 * 1 * 2) ⟨0x20, 16⟩ (4 * 2 * 1 * 2) ∧
      ∀ x < 2, ∀ y < 1, SamePx s.mem 2 (pxAddr ⟨0, 4⟩ 2 2 x y) (⟨0, 4⟩ : Buf).base :=
  ⟨by decide, ⟨by simp [BufOk, Config.std], by simp [BufOk, Config.std], apart_of_le (by decide)⟩, by decide⟩

theorem test_witness_ScaledSizeFits : 100 * 40 = 80 * 50 ∧ 1 ≤ 100 ∧ 1 ≤ 50 := by decide

theorem test_witness_InterpolationIsExact : 31 < 2 ^ 5 ∧ 0 < 2 ^ 5 ∧ 1 ≤ 4 := by decide

/-- Both kinds of Interp; a pixel of the scaled image, and one of the border. -/
theorem test_witness_BilinearRunsInterp :
    { Config.std with interp := .other 0 }.interp = .other 0 ∧ Config.std.interp = .exact ∧
      Ready Config.std ⟨0, 4⟩ (2 * 2 * 1) ⟨0x20, 32⟩ (2 * 4 * 4) ∧ fitSize 2 1 4 4 = (4, 2) ∧
      ¬ InImage ((4 - 4) / 2) ((4 - 2) / 2) 4 2 0 3 := by
  refine ⟨rfl, rfl, ⟨?_, ?_, apart_of_le (by decide)⟩, by decide, ?_⟩ <;> simp [BufOk, InImage, Config.std]

/-- A border above and below; and a scaled image without a row (R227 (d)). -/
theorem test_witness_BilinearResult :
    State.reset.cfg.interp = .exact ∧ (Ready Config.std ⟨0, 4⟩ (2 * 2 * 1) ⟨0x20, 32⟩ (2 * 4 * 4) ∧ fitSize 2 1 4 4 = (4, 2) ∧
      ¬ InImage ((4 - 4) / 2) ((4 - 2) / 2) 4 2 0 3) ∧
    Ready Config.std ⟨0, 6⟩ (2 * 3 * 1) ⟨0x20, 4⟩ (2 * 2 * 1) ∧ fitSize 3 1 2 1 = (2, 0) := by
  refine ⟨rfl, ⟨⟨?_, ?_, apart_of_le (by decide)⟩, by decide, ?_⟩, ⟨?_, ?_, apart_of_le (by decide)⟩, by decide⟩ <;>
    simp [BufOk, InImage, Config.std]

/-- The document's example: 100×50 into 100×100 (R227 (b)). -/
theorem test_witness_BilinearIdentity :
    State.reset.cfg.interp = .exact ∧ Ready Config.std ⟨0, 10000⟩ (2 * 100 * 50) ⟨0x10000, 20000⟩ (2 * 100 * 100) ∧ fitSize 100 50 100 100 = (100, 50) :=
  ⟨rfl, ⟨by simp [BufOk, Config.std], by simp [BufOk, Config.std], apart_of_le (by decide)⟩, by decide⟩

theorem test_witness_BilinearBorderForAnyInterp :
    fitSize 1 2 4 4 = (2, 4) ∧ ¬ InImage ((4 - 2) / 2) ((4 - 4) / 2) 2 4 3 3 := by
  refine ⟨by decide, ?_⟩
  simp [InImage]

theorem test_witness_CenterResult :
    CenterOk 2 1 5 4 ∧ Ready Config.std ⟨0, 2⟩ (2 * 1) ⟨0x20, 20⟩ (5 * 4) ∧ 3 ∈ Config.std.bppSet ∧
      Ready Config.std ⟨0, 6⟩ (2 * 1 * 3) ⟨0x20, 60⟩ (5 * 4 * 3) :=
  ⟨by simp [CenterOk], ⟨by simp [BufOk, Config.std], by simp [BufOk, Config.std], apart_of_le (by decide)⟩, by decide,
    by simp [BufOk, Config.std], by simp [BufOk, Config.std], apart_of_le (by decide)⟩

end Sys2Proof.Tests
end

/-! PROOFS. The scope family: serialising and decoding a command (30_encoding R81 to R84), the turn of the
block (00_scope R5), what every step keeps (R8), and what a command's outcome depends on (R6, 20_memory
R52). -/

namespace Sys2Proof

/-! ### The serialised descriptor -/

/-- A word is put together again from its four bytes (R83). -/
theorem wordOfBytes_extract (w : Word) :
    wordOfBytes (w.extractLsb' 0 8) (w.extractLsb' 8 8) (w.extractLsb' 16 8) (w.extractLsb' 24 8) = w := by
  have h24 := BitVec.extractLsb'_append_extractLsb'_eq_extractLsb' (x := w) (start₁ := 16) (len₁ := 8)
    (start₂ := 24) (len₂ := 8) rfl
  have h16 := BitVec.extractLsb'_append_extractLsb'_eq_extractLsb' (x := w) (start₁ := 8) (len₁ := 8)
    (start₂ := 16) (len₂ := 16) rfl
  have h8 := BitVec.extractLsb'_append_extractLsb'_eq_extractLsb' (x := w) (start₁ := 0) (len₁ := 8)
    (start₂ := 8) (len₂ := 24) rfl
  rw [wordOfBytes, h24, h16, h8, BitVec.extractLsb'_eq_self]

/-- The words of serialised words are those words, whatever bytes follow (R83). -/
theorem takeWords_bytesOfWords (ws : List Word) (rest : List Byte) :
    takeWords ws.length (bytesOfWords ws ++ rest) = some (ws, rest) := by
  induction ws with
  | nil => rfl
  | cons w ws ih => simp [bytesOfWords, bytesOfWord, takeWords, ih, wordOfBytes_extract]

/-- A field above the low part of an append is a field of its high part. -/
theorem extract_append_above {v w : Nat} (hi : BitVec v) (lo : BitVec w) (start len : Nat) :
    (hi ++ lo).extractLsb' (w + start) len = hi.extractLsb' start len := by
  rw [BitVec.extractLsb'_append_eq_of_le (Nat.le_add_right _ _), Nat.add_sub_cancel_left]

/-- Every field of W9 is read from the bits it was written to (R81): above BPP lies CM, above CM the reserved
bits W9[7:5], and so on up to NLR. -/
theorem extract_w9_fields (nlr : BitVec 16) (hi bitlen : BitVec 4) (lo : BitVec 3) (cm : BitVec 1)
    (bpp : BitVec 4) (w : Word) (hw : w = nlr ++ hi ++ bitlen ++ lo ++ cm ++ bpp) :
    w.extractLsb' 0 4 = bpp ∧ w.extractLsb' 4 1 = cm ∧ w.extractLsb' 5 3 = lo ∧
      w.extractLsb' 8 4 = bitlen ∧ w.extractLsb' 12 4 = hi ∧ w.extractLsb' 16 16 = nlr := by
  have aboveBpp (start len : Nat) :
      w.extractLsb' (4 + start) len = (nlr ++ hi ++ bitlen ++ lo ++ cm).extractLsb' start len :=
    hw ▸ extract_append_above _ bpp start len
  have aboveCm (start len : Nat) := (aboveBpp (1 + start) len).trans (extract_append_above _ cm start len)
  have aboveLo (start len : Nat) := (aboveCm (3 + start) len).trans (extract_append_above _ lo start len)
  have aboveBitlen (start len : Nat) :=
    (aboveLo (4 + start) len).trans (extract_append_above _ bitlen start len)
  exact ⟨hw ▸ BitVec.extractLsb'_append_eq_right,
    (aboveBpp 0 1).trans BitVec.extractLsb'_append_eq_right,
    (aboveCm 0 3).trans BitVec.extractLsb'_append_eq_right,
    (aboveLo 0 4).trans BitVec.extractLsb'_append_eq_right,
    (aboveBitlen 0 4).trans BitVec.extractLsb'_append_eq_right,
    (aboveBitlen 4 16).trans BitVec.extractLsb'_append_eq_left⟩

/-- The fields of a descriptor's words are its fields (R81). -/
theorem descOfWords_wordsOfDesc (d : Desc) : descOfWords (wordsOfDesc d) = some d := by
  obtain ⟨hbpp, hcm, hlo, hbitlen, hhi, hnlr⟩ :=
    extract_w9_fields d.nlr d.rsvW9hi d.bitlen d.rsvW9lo d.cm d.bpp _ rfl
  have low {v w : Nat} (a : BitVec v) (b : BitVec w) : (a ++ b).extractLsb' 0 w = b :=
    BitVec.extractLsb'_append_eq_right
  have high {v w : Nat} (a : BitVec v) (b : BitVec w) : (a ++ b).extractLsb' w v = a :=
    BitVec.extractLsb'_append_eq_left
  simp only [descOfWords, wordsOfDesc, hbpp, hcm, hlo, hbitlen, hhi, hnlr, low d.rsvW0 d.op, high d.rsvW0 d.op,
    low d.srcH d.srcW, high d.srcH d.srcW, low d.dstH d.dstW, high d.dstH d.dstW, low d.y d.x, high d.y d.x]

/-- A descriptor is read back from its 48 bytes, whatever bytes follow (R81, R83). -/
theorem takeDesc_bytesOfWords (d : Desc) (rest : List Byte) :
    takeDesc (bytesOfWords (wordsOfDesc d) ++ rest) = some (d, rest) := by
  have h : takeWords 12 (bytesOfWords (wordsOfDesc d) ++ rest) = some (wordsOfDesc d, rest) :=
    takeWords_bytesOfWords (wordsOfDesc d) rest
  simp only [takeDesc, h, descOfWords_wordsOfDesc]

/-- The descriptor of a well-formed command selects that command (R84): the family of `DescRoundTrip`. -/
theorem decodeDesc_descOfInstr (i : Instr) : Laws.DescRoundTrip.Statement i := by
  cases i with
  | mapaddr => exact Laws.DescRoundTrip.mapaddr _ _ _ _ _
  | idx2rgb24 => exact Laws.DescRoundTrip.idx2rgb24 _ _ _ _
  | splitplanes => exact Laws.DescRoundTrip.splitplanes _ _ _ _ _
  | splitdots => exact Laws.DescRoundTrip.splitdots _ _ _ _ _ _
  | scaledownIdx => exact Laws.DescRoundTrip.scaledownIdx _ _ _ _ _ _
  | scaledownPup => exact Laws.DescRoundTrip.scaledownPup _ _ _ _ _ _
  | scaledown => exact Laws.DescRoundTrip.scaledown _ _ _ _ _ _ _
  | scaleupIdx => exact Laws.DescRoundTrip.scaleupIdx _ _ _ _
  | scaleup => exact Laws.DescRoundTrip.scaleup _ _ _ _ _
  | bilinear => exact Laws.DescRoundTrip.bilinear _ _ _ _ _ _
  | centerIdx => exact Laws.DescRoundTrip.centerIdx _ _ _ _ _ _
  | center => exact Laws.DescRoundTrip.center _ _ _ _ _ _ _

/-- Settles O1: the bytes give the descriptor back, and the descriptor the command. -/
theorem decodeInvertsEncode : Obligations.DecodeInvertsEncode := by
  intro cfg i rest hwf
  simp only [decodeBytes, encode, takeDesc_bytesOfWords, decodeDesc_descOfInstr i cfg hwf]

end Sys2Proof

namespace Sys2Proof.Machine

open Sys2Proof.Claims

/-! ### The block's turn and the parameters -/

theorem blockTurn_of_not_busy {s : State} (h : s.status ≠ .busy) : blockTurn s = .next s := by
  unfold blockTurn
  split
  · contradiction
  all_goals rfl

/-- At the block's turn, whether the host has no action or waits, the step is that turn (log 10). -/
theorem step_of_blocksTurn {s s' : State} (h : BlocksTurn s s') : step s = blockTurn s' := by
  obtain ⟨hp, rfl⟩ | ⟨rest, hp, rfl⟩ := h <;> simp only [step, hp, hostTurn]

/-- Settles O21: the step is the block's turn, which changes nothing outside BUSY. -/
theorem blockWaitsForStart : Obligations.BlockWaitsForStart := by
  intro s s' hturn hbusy
  have hbusy' : s'.status ≠ .busy := by
    obtain ⟨-, rfl⟩ | ⟨_, -, rfl⟩ := hturn <;> exact hbusy
  rw [step_of_blocksTurn hturn, blockTurn_of_not_busy hbusy']

theorem blockTurn_cfg {s t : State} (h : blockTurn s = .next t) : t.cfg = s.cfg := by
  obtain ⟨-, rfl⟩ | ⟨-, ⟨i, -, hexec⟩ | ⟨r, -, rfl⟩⟩ := blockTurn_cases h
  · rfl
  · exact (exec_host hexec).1
  · rfl

/-- No host action changes a parameter (R8; log 7). -/
theorem hostTurn_cfg {a : HostAction} {s t : State} (h : hostTurn a s = .next t) : t.cfg = s.cfg := by
  cases a with
  | wait => exact blockTurn_cfg h
  | write f v => obtain ⟨-, ⟨-, rfl⟩ | ⟨-, u, -, rfl⟩⟩ := hostWrite_cases h <;> rfl
  | start => obtain ⟨-, rfl⟩ | ⟨-, rfl⟩ := hostStart_cases h <;> rfl
  | clear => obtain ⟨-, rfl⟩ | ⟨-, rfl⟩ := hostClear_cases h <;> rfl
  | read r => obtain ⟨-, rfl⟩ := hostRead_cases h; rfl
  | reset => cases h; rfl
  | memWrite a b => obtain ⟨-, -, rfl⟩ := hostMemWrite_cases h; rfl
  | memRead a => obtain ⟨-, -, rfl⟩ := hostMemRead_cases h; rfl

/-- A step is the block's turn, or the host's next action with that action taken off. -/
theorem step_cases {s t : State} (h : step s = .next t) :
    (s.pending = [] ∧ blockTurn s = .next t) ∨
      ∃ a rest, s.pending = a :: rest ∧ hostTurn a { s with pending := rest } = .next t := by
  unfold step at h
  split at h
  · exact .inl ⟨‹_›, h⟩
  · exact .inr ⟨_, _, ‹_›, h⟩

/-- Settles O58: neither the block's turn nor a host action changes a parameter. -/
theorem configNeverChanges : Obligations.ConfigNeverChanges := by
  intro s t h
  obtain ⟨-, hblock⟩ | ⟨a, rest, -, hhost⟩ := step_cases h
  · exact blockTurn_cfg hblock
  · exact hostTurn_cfg (s := { s with pending := rest }) hhost

/-- Settles O23: the reset state is fixed data, and memory lists no byte. -/
theorem resetState : Obligations.ResetState :=
  ⟨rfl, rfl, fun _ => List.not_mem_nil, Memory.read_nil, rfl, rfl, rfl, rfl, rfl, rfl, rfl, rfl, rfl⟩

/-! ### What a command's outcome depends on

A command reads its source and palette through `framePx`, `px16` and `bufByte`. Each of these gives the same
in two memories that agree on the bytes it may read, so every destination byte does. -/

/-- Two memories hold the same first `n` bytes of a buffer. -/
def SameBytes (m m' : Memory) (b : Buf) (n : Nat) : Prop := ∀ o < n, bufByte m b o = bufByte m' b o

theorem sameBytes_iff_extent {m m' : Memory} {b : Buf} {n : Nat} :
    SameBytes m m' b n ↔ ∀ a, InExtent b n a → Memory.read m a = Memory.read m' a := by
  constructor
  · rintro h a ⟨hlo, hhi⟩
    obtain ⟨o, rfl⟩ := Nat.exists_eq_add_of_le hlo
    exact h o (by omega)
  · exact fun h o ho => h _ ⟨by omega, by omega⟩

/-- Stores of the same bytes leave the same bytes, whatever the memories held. -/
theorem storeDst_sameBytes {s s' : State} {dst : Buf} {n : Nat} {f g : Nat → Byte}
    (h : ∀ o < n, f o = g o) :
    SameBytes (s.storeDst dst n f).mem (s'.storeDst dst n g).mem dst n := by
  intro o ho
  simp only [State.storeDst_mem, bufByte, Memory.read_store_at ho, h o ho]

theorem framePx_congr {m m' : Memory} {b : Buf} {bpp w h x y : Nat} (hm : SameBytes m m' b (w * h * bpp))
    (hx : x < w) (hy : y < h) : framePx m b bpp w x y = framePx m' b bpp w x y :=
  framePx_eq_iff.2 fun _ hc => hm _ (px_offset_lt hc hx hy)

theorem px16_congr {cfg : Config} {m m' : Memory} {b : Buf} {w h x y : Nat}
    (hm : SameBytes m m' b (2 * w * h)) (hx : x < w) (hy : y < h) :
    px16 cfg m b.base (y * w + x) = px16 cfg m' b.base (y * w + x) := by
  have hlt := px_offset_lt (bpp := 2) (c := 1) (by decide) hx hy
  have hsize : 2 * w * h = w * h * 2 := by ring
  have hlow : Memory.read m (b.base + 2 * (y * w + x)) = Memory.read m' (b.base + 2 * (y * w + x)) :=
    hm _ (by omega)
  have hhigh : Memory.read m (b.base + 2 * (y * w + x) + 1) = Memory.read m' (b.base + 2 * (y * w + x) + 1) :=
    hm (2 * (y * w + x) + 1) (by omega)
  simp only [px16, hlow, hhigh]

/-- A canvas is decided by its image. -/
theorem canvasPx_congr {bpp ox oy iw ih : Nat} {px px' : Nat → Nat → Pixel}
    (h : ∀ x < iw, ∀ y < ih, px x y = px' x y) :
    canvasPx bpp ox oy iw ih px = canvasPx bpp ox oy iw ih px' := by
  funext x y
  unfold canvasPx
  split_ifs
  · exact h _ (by omega) _ (by omega)
  · rfl

/-- A byte of a frame is decided by the pixels of the frame. -/
theorem frameByte_congr {bpp w h o : Nat} {px px' : Nat → Nat → Pixel} (ho : o < w * h * bpp)
    (hpx : ∀ x < w, ∀ y < h, px x y = px' x y) : frameByte bpp w px o = frameByte bpp w px' o := by
  obtain ⟨-, hx, hy, -⟩ := offset_of_px ho
  rw [frameByte, frameByte, hpx _ hx _ hy]

/-! #### Command by command -/

theorem idx2rgb24Byte_congr {m m' : Memory} {src pal : Buf} {count o : Nat} (hsrc : SameBytes m m' src count)
    (hpal : SameBytes m m' pal 768) (ho : o < 3 * count) :
    idx2rgb24Byte m src pal o = idx2rgb24Byte m' src pal o := by
  have hbyte := (bufByte m' src (o / 3)).isLt
  rw [idx2rgb24Byte, idx2rgb24Byte, hsrc _ (by omega), hpal _ (by omega)]

theorem planeByte_congr {m m' : Memory} {src : Buf} {w h i k : Nat} (hm : SameBytes m m' src (w * h))
    (hk : k < planeSize w h) : planeByte m src i k = planeByte m' src i k := by
  unfold planeSize at hk
  refine List.foldl_ext _ _ _ fun byte v hv => ?_
  rw [hm _ (by have := List.mem_range.1 hv; omega)]

theorem pairByte_congr {cfg : Config} {m m' : Memory} {src : Buf} {w h x y k : Nat} {cm : ColorMatrix}
    (hm : SameBytes m m' src (2 * w * h)) (hx : x < w) (hy : y + 16 < h) :
    pairByte cfg m src w cm k x y = pairByte cfg m' src w cm k x y := by
  rw [pairByte, pairByte, px16_congr hm hx (by omega), px16_congr hm hx hy]

/-- The lower pixel of a pair lies in the frame: the height is a multiple of 32 (R125, R156). -/
theorem mem_pairsAt_lt {w h n idx : Nat} {p : Nat × Nat} (hh : h % 32 = 0) (hp : p ∈ pairsAt w h n idx) :
    p.1 < w ∧ p.2 + 16 < h := by
  simp only [pairsAt, List.mem_flatMap, List.mem_map, List.mem_filter, List.mem_range,
    decide_eq_true_eq] at hp
  obtain ⟨y, ⟨hy, hrow, -⟩, x, ⟨hx, -⟩, rfl⟩ := hp
  exact ⟨hx, by simp only; omega⟩

theorem candidates_congr {cfg : Config} {m m' : Memory} {src : Buf} {w h n k idx : Nat} {cm : ColorMatrix}
    (hh : h % 32 = 0) (hm : SameBytes m m' src (2 * w * h)) :
    candidates cfg m src w h n cm k idx = candidates cfg m' src w h n cm k idx := by
  unfold candidates
  congr 1
  refine List.map_congr_left fun p hp => ?_
  obtain ⟨hx, hy⟩ := mem_pairsAt_lt hh hp
  exact pairByte_congr hm hx hy

theorem splitdotsByte_congr {cfg : Config} {use : Nat} {m m' : Memory} {src dst : Buf} {w h n o : Nat}
    {cm : ColorMatrix} (hh : h % 32 = 0) (hsrc : SameBytes m m' src (2 * w * h))
    (hdst : SameBytes m m' dst (3 * subFrameSize w h)) (ho : o < 3 * subFrameSize w h) :
    splitdotsByte cfg use m src dst w h n cm o = splitdotsByte cfg use m' src dst w h n cm o := by
  rw [splitdotsByte, splitdotsByte, hdst _ ho, candidates_congr hh hsrc]

theorem scaleDownByte_congr {m m' : Memory} {src : Buf} {bpp sw sh dw dh : Nat}
    (hm : SameBytes m m' src (sw * sh * bpp)) (o : Nat) :
    scaleDownByte m src bpp sw sh dw dh o = scaleDownByte m' src bpp sw sh dw dh o := by
  unfold scaleDownByte
  rw [canvasPx_congr fun col hcol row hrow => ?_]
  have px {x y : Nat} (hx : x < sw) (hy : y < sh) := framePx_congr hm hx hy
  simp only [blockPx]
  rw [px (x := 2 * col) (y := 2 * row) (by omega) (by omega),
    px (x := 2 * col + 1) (y := 2 * row) (by omega) (by omega),
    px (x := 2 * col) (y := 2 * row + 1) (by omega) (by omega),
    px (x := 2 * col + 1) (y := 2 * row + 1) (by omega) (by omega)]

theorem scaleUpPx_congr {m m' : Memory} {src : Buf} {bpp sw sh X Y : Nat}
    (hm : SameBytes m m' src (sw * sh * bpp)) (hX : X < 2 * sw) (hY : Y < 2 * sh) :
    scaleUpPx m src bpp sw sh X Y = scaleUpPx m' src bpp sw sh X Y := by
  have px {x y : Nat} (hx : x < sw) (hy : y < sh) := framePx_congr hm hx hy
  simp only [scaleUpPx]
  rw [px (x := X / 2) (y := Y / 2 - 1) (by omega) (by omega),
    px (x := X / 2 - 1) (y := Y / 2) (by omega) (by omega),
    px (x := X / 2) (y := Y / 2) (by omega) (by omega),
    px (x := min (X / 2 + 1) (sw - 1)) (y := Y / 2) (by omega) (by omega),
    px (x := X / 2) (y := min (Y / 2 + 1) (sh - 1)) (by omega) (by omega)]

theorem scaleUpByte_congr {m m' : Memory} {src : Buf} {bpp sw sh o : Nat}
    (hm : SameBytes m m' src (sw * sh * bpp)) (ho : o < 4 * sw * sh * bpp) :
    frameByte bpp (2 * sw) (scaleUpPx m src bpp sw sh) o =
      frameByte bpp (2 * sw) (scaleUpPx m' src bpp sw sh) o :=
  frameByte_congr (h := 2 * sh) (by convert ho using 2; ring) fun _ hx _ hy => scaleUpPx_congr hm hx hy

theorem sampleLow_lt {i size scaled : Nat} (h : 1 ≤ size) : sampleLow i size scaled < size := by
  have hle : sampleLow i size scaled ≤ size - 1 :=
    Nat.div_le_of_le_mul (by rw [Nat.mul_comm]; exact Nat.min_le_right _ _)
  omega

theorem sampleHigh_lt {i size scaled : Nat} (h : 1 ≤ size) : sampleHigh i size scaled < size := by
  unfold sampleHigh
  omega

theorem resampledPx_congr {interp : Interp} {cfg : Config} {m m' : Memory} {src : Buf}
    {sw sh scw sch x y : Nat} (hsw : 1 ≤ sw) (hsh : 1 ≤ sh) (hm : SameBytes m m' src (2 * sw * sh)) :
    resampledPx interp cfg m src sw sh scw sch x y = resampledPx interp cfg m' src sw sh scw sch x y := by
  have hx0 := sampleLow_lt (i := x) (scaled := scw) hsw
  have hx1 := sampleHigh_lt (i := x) (scaled := scw) hsw
  have hy0 := sampleLow_lt (i := y) (scaled := sch) hsh
  have hy1 := sampleHigh_lt (i := y) (scaled := sch) hsh
  simp only [resampledPx, px16_congr hm hx0 hy0, px16_congr hm hx1 hy0, px16_congr hm hx0 hy1,
    px16_congr hm hx1 hy1]

theorem bilinearByte_congr {interp : Interp} {cfg : Config} {m m' : Memory} {src : Buf} {sw sh dw dh : Nat}
    (hsw : 1 ≤ sw) (hsh : 1 ≤ sh) (hm : SameBytes m m' src (2 * sw * sh)) (o : Nat) :
    bilinearByte interp cfg m src sw sh dw dh o = bilinearByte interp cfg m' src sw sh dw dh o := by
  simp only [bilinearByte, resampledPx_congr hsw hsh hm]

theorem centerByte_congr {m m' : Memory} {src : Buf} {bpp sw sh dw dh : Nat}
    (hm : SameBytes m m' src (sw * sh * bpp)) (o : Nat) :
    centerByte m src bpp sw sh dw dh o = centerByte m' src bpp sw sh dw dh o := by
  unfold centerByte
  rw [canvasPx_congr fun x hx y hy => framePx_congr hm hx hy]

theorem scaleDown_sameBytes {s s' : State} {src dst : Buf} {bpp sw sh dw dh n k : Nat}
    (hm : SameBytes s.mem s'.mem src n) (hn : n = sw * sh * bpp) (hk : k = dw * dh * bpp) :
    SameBytes (scaleDown bpp src dst sw sh dw dh s).mem (scaleDown bpp src dst sw sh dw dh s').mem dst k := by
  subst hn hk
  exact storeDst_sameBytes fun o _ => scaleDownByte_congr hm o

theorem scaleUp_sameBytes {s s' : State} {src dst : Buf} {bpp sw sh n k : Nat}
    (hm : SameBytes s.mem s'.mem src n) (hn : n = sw * sh * bpp) (hk : k = 4 * sw * sh * bpp) :
    SameBytes (scaleUp bpp src dst sw sh s).mem (scaleUp bpp src dst sw sh s').mem dst k := by
  subst hn hk
  exact storeDst_sameBytes fun o ho => scaleUpByte_congr hm ho

theorem centerFrame_sameBytes {s s' : State} {src dst : Buf} {bpp sw sh dw dh n k : Nat}
    (hm : SameBytes s.mem s'.mem src n) (hn : n = sw * sh * bpp) (hk : k = dw * dh * bpp) :
    SameBytes (centerFrame bpp src dst sw sh dw dh s).mem (centerFrame bpp src dst sw sh dw dh s').mem dst k := by
  subst hn hk
  exact storeDst_sameBytes fun o _ => centerByte_congr hm o

/-! #### All commands -/

/-- The bytes a command leaves in its destination are decided by the parameters, its operands and the bytes
it reads (R52); for SPLITDOTS also by the old destination bytes and the free values (R157, R158). -/
theorem effectOf_sameBytes {i : Instr} {s s' : State} (hcfg : s.cfg = s'.cfg)
    (hpre : (jobOf s.cfg i).pre = true) (hsrc : ∀ p ∈ sources i, SameBytes s.mem s'.mem p.1 p.2)
    (hdots : ∀ src dst sw sh nlr cm, i = .splitdots src dst sw sh nlr cm →
      s.freeCount = s'.freeCount ∧ ∀ p ∈ targets i, SameBytes s.mem s'.mem p.1 p.2) :
    ∀ p ∈ targets i, SameBytes (effectOf i s).mem (effectOf i s').mem p.1 p.2 := by
  cases i with
  | mapaddr => exact fun p hp => absurd hp List.not_mem_nil
  | idx2rgb24 src pal dst count =>
    obtain ⟨hs, hp⟩ := List.forall_mem_cons.1 hsrc
    have hp := List.forall_mem_singleton.1 hp
    exact List.forall_mem_singleton.2 (storeDst_sameBytes fun o ho => idx2rgb24Byte_congr hs hp ho)
  | splitplanes src dst sw sh bitlen =>
    have hs := List.forall_mem_singleton.1 hsrc
    refine List.forall_mem_singleton.2 (storeDst_sameBytes fun o ho => planeByte_congr hs (Nat.mod_lt _ ?_))
    exact Nat.pos_of_ne_zero fun h0 => by simp [h0] at ho
  | splitdots src dst sw sh nlr cm =>
    have hs := List.forall_mem_singleton.1 hsrc
    obtain ⟨hfree, hd⟩ := hdots _ _ _ _ _ _ rfl
    have hd := List.forall_mem_singleton.1 hd
    obtain ⟨-, ⟨-, hh⟩, -⟩ : PanelPre sw sh nlr := of_decide_eq_true hpre
    refine List.forall_mem_singleton.2 (storeDst_sameBytes fun o ho => ?_)
    rw [hcfg, hfree]
    exact splitdotsByte_congr hh hs hd ho
  | scaledownIdx | scaledownPup =>
    have hs := List.forall_mem_singleton.1 hsrc
    exact List.forall_mem_singleton.2 (scaleDown_sameBytes hs (Nat.mul_one _).symm (Nat.mul_one _).symm)
  | scaledown =>
    have hs := List.forall_mem_singleton.1 hsrc
    exact List.forall_mem_singleton.2 (scaleDown_sameBytes hs rfl rfl)
  | scaleupIdx =>
    have hs := List.forall_mem_singleton.1 hsrc
    exact List.forall_mem_singleton.2 (scaleUp_sameBytes hs (Nat.mul_one _).symm (Nat.mul_one _).symm)
  | scaleup =>
    have hs := List.forall_mem_singleton.1 hsrc
    exact List.forall_mem_singleton.2 (scaleUp_sameBytes hs rfl rfl)
  | bilinear src dst sw sh dw dh =>
    have hs := List.forall_mem_singleton.1 hsrc
    obtain ⟨hsw, hsh, -⟩ : BilinearPre sw sh dw dh := of_decide_eq_true hpre
    refine List.forall_mem_singleton.2 (storeDst_sameBytes fun o _ => ?_)
    rw [hcfg]
    exact bilinearByte_congr hsw hsh hs o
  | centerIdx =>
    have hs := List.forall_mem_singleton.1 hsrc
    exact List.forall_mem_singleton.2 (centerFrame_sameBytes hs (Nat.mul_one _).symm (Nat.mul_one _).symm)
  | center =>
    have hs := List.forall_mem_singleton.1 hsrc
    exact List.forall_mem_singleton.2 (centerFrame_sameBytes hs rfl rfl)

/-- Settles O31: the checks depend on the operands and the parameters, so both runs fault alike or both have
the command's effect, whose destination bytes are decided by what the command reads. -/
theorem outcomeFromOperandsAndSources : Obligations.OutcomeFromOperandsAndSources := by
  intro i s s' t t' hcfg ht ht' hsrc hdots
  simp only [← sameBytes_iff_extent] at hsrc hdots ⊢
  obtain ⟨c, hfault, rfl⟩ | ⟨hok, rfl⟩ := exec_cases ht <;>
    obtain ⟨c', hfault', rfl⟩ | ⟨hok', rfl⟩ := exec_cases ht'
  · have hc : c = c' := by simpa [hcfg, hfault'] using hfault.symm
    exact ⟨rfl, by simp [hc], fun hdone => by simp at hdone⟩
  · simp [hcfg, hok'] at hfault
  · simp [hcfg, hfault'] at hok
  · obtain ⟨hpre, -⟩ := Job.fault_eq_none.1 hok
    refine ⟨rfl, rfl, fun _ => ⟨effectOf_sameBytes hcfg hpre hsrc hdots, ?_⟩⟩
    rintro x y sw sh nlr rfl
    rfl

end Sys2Proof.Machine

/-! PROOFS. The state family: what a step changes of the block's registers and of memory (10_state R21 to R30,
20_memory R67), what each host action does (R26), and the record of the written fields (log 25). -/

namespace Sys2Proof.Machine

open Sys2Proof.Claims

/-! ### What a command leaves in memory and in the registers -/

/-- The buffer a command's checks name as written is its target (R66). -/
theorem targets_eq_write (cfg : Config) (i : Instr) :
    targets i = (jobOf cfg i).write.toList.map fun u => (u.buf, u.need) := by
  cases i with
  | scaledownIdx | scaledownPup | scaleupIdx | centerIdx =>
    exact congrArg (fun n => [(_, n)]) (Nat.mul_one _).symm
  | _ => rfl

/-- A command keeps memory, or stores its write buffer's needed bytes, all inside the address space (R67). -/
theorem exec_mem {i : Instr} {s t : State} (h : exec i s = .next t) :
    t.mem = s.mem ∨
      ∃ u f, (jobOf s.cfg i).write = some u ∧ u.buf.base + u.need ≤ 2 ^ s.cfg.aw ∧
        t.mem = Memory.store s.mem u.buf.base u.need f := by
  obtain ⟨c, -, rfl⟩ | ⟨hok, rfl⟩ := exec_cases h
  · exact .inl rfl
  · obtain ⟨-, v, e⟩ | ⟨dst, need, f, n, hwrite, e⟩ := effectOf_cases s.cfg i s <;> rw [e]
    · exact .inl rfl
    · exact .inr ⟨_, f, hwrite, write_inSpace hok hwrite, rfl⟩

/-- A store of a command's write buffer changes no byte outside its target's extent (R67). -/
theorem read_store_write_outside {cfg : Config} {i : Instr} {u : Use} {a len : Nat} {m : Memory} {f : Nat → Byte}
    (hwrite : (jobOf cfg i).write = some u) (hlen : len ≤ u.need)
    (ha : ∀ d ∈ targets i, ¬ InExtent d.1 d.2 a) :
    Memory.read (Memory.store m u.buf.base len f) a = Memory.read m a := by
  have hout : ¬ InExtent u.buf u.need a := ha (u.buf, u.need) (by simp [targets_eq_write cfg, hwrite])
  refine Memory.read_store_outside fun ⟨hlo, hhi⟩ => hout ⟨hlo, by omega⟩

/-! ### The invariant of the machine -/

theorem causeOk_of_not_fault {s : State} (hs : s.status ≠ .fault) (hc : s.cause = 0) : CauseOk s :=
  ⟨fun _ => hc, fun h => absurd h hs⟩

theorem causeOk_takeFault (s : State) (c : Cause) : CauseOk (s.takeFault c) :=
  ⟨fun h => absurd rfl h, fun _ => ⟨c, rfl⟩⟩

/-- A command ends in DONE with CAUSE 0, or in FAULT with a fault's code (R24, R27). -/
theorem exec_causeOk {i : Instr} {s t : State} (h : exec i s = .next t) : CauseOk t := by
  obtain ⟨c, -, rfl⟩ | ⟨-, rfl⟩ := exec_cases h
  · exact causeOk_takeFault s c
  · exact causeOk_of_not_fault (by simp) rfl

/-- What a store lists was listed before, or lies in the stored range. -/
theorem Memory.mem_store {m : Memory} {base len : Nat} {f : Nat → Byte} {c : Host.Cell}
    (h : c ∈ Memory.store m base len f) : c ∈ m ∨ (base ≤ c.1 ∧ c.1 < base + len) := by
  simp only [Memory.store, List.mem_append] at h
  obtain (h | h) | h := h
  · exact .inl (List.mem_of_mem_filter h)
  · obtain ⟨hlo, hhi, -⟩ := Memory.mem_cells h
    exact .inr ⟨by omega, by omega⟩
  · exact .inl (List.mem_of_mem_filter h)

/-- A RESET keeps memory, or leaves free bytes in the part of the running destination that lies in the address
space (R30; log 4). -/
theorem resetMemory_cases (s : State) :
    resetMemory s = s.mem ∨
      ∃ u f, runningDst s = some u ∧
        resetMemory s = Memory.store s.mem u.buf.base (min u.need (2 ^ s.cfg.aw - u.buf.base)) f := by
  unfold resetMemory
  split
  · exact .inr ⟨_, _, ‹_›, rfl⟩
  · exact .inl rfl

theorem resetMemory_wf {s : State} (h : s.mem.wf) : (resetMemory s).wf := by
  obtain e | ⟨u, f, -, e⟩ := resetMemory_cases s <;> rw [e]
  · exact h
  · exact Memory.store_wf h _ _ _

theorem resetMemory_inSpace {s : State} (h : s.mem.inSpace s.cfg) : (resetMemory s).inSpace s.cfg := by
  obtain e | ⟨u, f, -, e⟩ := resetMemory_cases s <;> rw [e]
  · exact h
  · intro c hc
    obtain hold | ⟨hlo, hhi⟩ := Memory.mem_store hc
    · exact h c hold
    · omega

theorem nodup_written_setField {s : State} (h : s.written.Nodup) (f : Field) (v : Nat) :
    (s.setField f v).written.Nodup := by
  rw [State.setField_written]
  split_ifs with hf
  · exact h
  · exact List.nodup_cons.2 ⟨hf, h⟩

theorem takeFault_inv {s : State} (h : MachineInv s) (c : Cause) : MachineInv (s.takeFault c) := by
  obtain ⟨hwf, hspace, -, hnodup⟩ := h
  exact ⟨hwf, hspace, causeOk_takeFault s c, hnodup⟩

theorem exec_inv {i : Instr} {s t : State} (h : MachineInv s) (hexec : exec i s = .next t) : MachineInv t := by
  obtain ⟨hwf, hspace, -, hnodup⟩ := h
  obtain ⟨hcfg, -, hwritten, -⟩ := exec_host hexec
  have hmem : t.mem.wf ∧ t.mem.inSpace s.cfg := by
    obtain e | ⟨u, f, -, hfits, e⟩ := exec_mem hexec <;> rw [e]
    · exact ⟨hwf, hspace⟩
    · exact ⟨Memory.store_wf hwf _ _ _, Memory.store_inSpace hspace hfits f⟩
  exact ⟨hmem.1, hcfg ▸ hmem.2, exec_causeOk hexec, hwritten ▸ hnodup⟩

theorem blockTurn_inv {s t : State} (h : MachineInv s) (hturn : blockTurn s = .next t) : MachineInv t := by
  obtain ⟨-, rfl⟩ | ⟨-, ⟨i, -, hexec⟩ | ⟨r, -, rfl⟩⟩ := blockTurn_cases hturn
  · exact h
  · exact exec_inv h hexec
  · exact takeFault_inv h _

/-- Every host action keeps the invariant: it moves memory by a store inside the address space, and STATE and
CAUSE together. -/
theorem hostTurn_inv {a : HostAction} {s t : State} (h : MachineInv s) (hturn : hostTurn a s = .next t) :
    MachineInv t := by
  have ⟨hwf, hspace, hcause, hnodup⟩ := h
  cases a with
  | wait => exact blockTurn_inv h hturn
  | write f v =>
    obtain ⟨-, ⟨-, rfl⟩ | ⟨-, u, -, rfl⟩⟩ := hostWrite_cases hturn
    · exact ⟨hwf, hspace, hcause, nodup_written_setField hnodup f v⟩
    · exact ⟨hwf, hspace, hcause, nodup_written_setField hnodup f u⟩
  | start =>
    obtain ⟨-, rfl⟩ | ⟨-, rfl⟩ := hostStart_cases hturn
    · exact h
    · exact ⟨hwf, hspace, causeOk_of_not_fault (by simp) rfl, hnodup⟩
  | clear =>
    obtain ⟨-, rfl⟩ | ⟨-, rfl⟩ := hostClear_cases hturn
    · exact h
    · exact ⟨hwf, hspace, causeOk_of_not_fault (by simp) rfl, hnodup⟩
  | read r =>
    obtain ⟨-, rfl⟩ := hostRead_cases hturn
    exact h
  | reset =>
    cases hturn
    exact ⟨resetMemory_wf hwf, resetMemory_inSpace (s := s) hspace, causeOk_of_not_fault (by simp) rfl,
      List.nodup_nil⟩
  | memWrite a b =>
    obtain ⟨ha, -, rfl⟩ := hostMemWrite_cases hturn
    exact ⟨Memory.store_wf hwf _ _ _, Memory.store_inSpace hspace ha _, hcause, hnodup⟩
  | memRead a =>
    obtain ⟨-, -, rfl⟩ := hostMemRead_cases hturn
    exact h

/-- Settles O25: the block's turn and every host action keep the invariant. -/
theorem stepKeepsInv : Obligations.StepKeepsInv := by
  intro s t hinv h
  obtain ⟨-, hblock⟩ | ⟨a, rest, -, hhost⟩ := step_cases h
  · exact blockTurn_inv hinv hblock
  · exact hostTurn_inv (s := { s with pending := rest }) hinv hhost

/-- Settles O24: after reset no byte is listed, no field is written and CAUSE is 0. -/
theorem resetMeetsInv : Obligations.ResetMeetsInv :=
  ⟨Memory.wf_nil, fun _ hc => absurd hc List.not_mem_nil, causeOk_of_not_fault (by decide) rfl, List.nodup_nil⟩

/-! ### What one host action does (R26) -/

theorem step_of_nextAction {s : State} {a : HostAction} {rest : List HostAction} (h : NextAction s a rest) :
    step s = hostTurn a { s with pending := rest } := by
  have hp : s.pending = a :: rest := h
  simp only [step, hp]

theorem blockTurn_of_busy {s : State} {i : Instr} (hs : s.status = .busy) (hi : fetch s = .ok i) :
    blockTurn s = exec i s := by
  simp only [blockTurn, hs, hi]

theorem hostStart_of_fault {s : State} (hs : s.status = .fault) : hostStart s = .next s := by
  simp only [hostStart, hs]

theorem hostClear_of_idle {s : State} (hs : s.status = .idle) : hostClear s = .next s := by
  simp only [hostClear, hs]

theorem hostClear_of_ended {s : State} (hs : s.status = .done ∨ s.status = .fault) :
    hostClear s = .next s.clearFault := by
  obtain hs | hs := hs <;> simp only [hostClear, hs]

theorem hostRead_of_legal {r : Reg} {s : State} (h : s.status = .busy → r = .status) :
    hostRead r s = .next { s with readData := readReg s r, lent := if endSeen r s then [] else s.lent } :=
  if_neg fun ⟨hs, hr⟩ => hr (h hs)

/-- Outside BUSY a WRITE sets its field: to its value, if the field can hold it, and otherwise to a free one
(log 13). -/
theorem hostWrite_of_not_busy {s : State} (hs : s.status ≠ .busy) (f : Field) (v : Nat) :
    ∃ u n, hostWrite f v s = .next { s.setField f u with freeCount := n } ∧
      (v < 2 ^ fieldWidth s.cfg f → u = v ∧ n = s.freeCount) ∧
      (2 ^ fieldWidth s.cfg f ≤ v → n = s.freeCount + 1) := by
  unfold hostWrite
  rw [if_neg hs]
  split_ifs with hv
  · exact ⟨v, _, rfl, fun _ => ⟨rfl, rfl⟩, fun h => by omega⟩
  · exact ⟨_, _, rfl, fun h => absurd h hv, fun _ => rfl⟩

/-- In FAULT only CLEAR and RESET reach STATE, CAUSE or RESULT. -/
theorem hostTurn_in_fault {a : HostAction} {s t : State} (hs : s.status = .fault) (hclear : a ≠ .clear)
    (hreset : a ≠ .reset) (h : hostTurn a s = .next t) :
    t.status = .fault ∧ t.cause = s.cause ∧ t.result = s.result := by
  cases a with
  | wait =>
    obtain ⟨-, rfl⟩ | ⟨hbusy, -⟩ := blockTurn_cases h
    · exact ⟨hs, rfl, rfl⟩
    · simp [hs] at hbusy
  | start =>
    obtain ⟨-, rfl⟩ | ⟨hready, -⟩ := hostStart_cases h
    · exact ⟨hs, rfl, rfl⟩
    · simp [hs] at hready
  | write f v => obtain ⟨-, ⟨-, rfl⟩ | ⟨-, u, -, rfl⟩⟩ := hostWrite_cases h <;> exact ⟨hs, rfl, rfl⟩
  | clear => exact absurd rfl hclear
  | read r => obtain ⟨-, rfl⟩ := hostRead_cases h; exact ⟨hs, rfl, rfl⟩
  | reset => exact absurd rfl hreset
  | memWrite a b => obtain ⟨-, -, rfl⟩ := hostMemWrite_cases h; exact ⟨hs, rfl, rfl⟩
  | memRead a => obtain ⟨-, -, rfl⟩ := hostMemRead_cases h; exact ⟨hs, rfl, rfl⟩

/-- Settles O12: outside BUSY the block waits, and no other action of the host reaches the three registers. -/
theorem faultIsSticky : Obligations.FaultIsSticky := by
  intro s hs
  refine ⟨fun t h hnext => ?_, fun rest hp => ?_, fun rest hp => ?_⟩
  · obtain ⟨-, hblock⟩ | ⟨a, rest, hp, hhost⟩ := step_cases h
    · exact hostTurn_in_fault (a := .wait) hs (by decide) (by decide) hblock
    · obtain ⟨hclear, hreset⟩ := hnext rest
      exact hostTurn_in_fault (s := { s with pending := rest }) hs (fun e => hclear (e ▸ hp))
        (fun e => hreset (e ▸ hp)) hhost
  · rw [step_of_nextAction hp]
    exact hostStart_of_fault hs
  · rw [step_of_nextAction hp]
    exact hostClear_of_ended (.inr hs)

/-- Settles O13: CLEAR is the return from DONE, and without effect in IDLE. -/
theorem clearLeavesDone : Obligations.ClearLeavesDone := by
  intro s rest hp
  rw [step_of_nextAction hp]
  exact ⟨fun hs => hostClear_of_ended (.inl hs), fun hs => hostClear_of_idle hs⟩

/-! ### RESET -/

/-- The running destination is the write buffer of the command OP selects. -/
theorem runningDst_eq_some {s : State} {u : Use} (h : runningDst s = some u) :
    s.status = .busy ∧ ∃ i, selectInstr s.cfg s.desc = some i ∧ (jobOf s.cfg i).write = some u := by
  simpa [runningDst, selectedJob, Option.bind_eq_some_iff] using h

theorem resetMemory_of_not_busy {s : State} (hs : s.status ≠ .busy) : resetMemory s = s.mem := by
  simp only [resetMemory, runningDst, if_neg hs]

/-- A RESET changes no byte outside the target of the command OP selects (R30; log 4). -/
theorem read_resetMemory_outside {s : State} {a : Nat}
    (ha : ∀ i, selectInstr s.cfg s.desc = some i → ∀ d ∈ targets i, ¬ InExtent d.1 d.2 a) :
    Memory.read (resetMemory s) a = Memory.read s.mem a := by
  obtain e | ⟨u, f, hdst, e⟩ := resetMemory_cases s <;> rw [e]
  obtain ⟨-, i, hi, hwrite⟩ := runningDst_eq_some hdst
  exact read_store_write_outside hwrite (Nat.min_le_left _ _) (ha i hi)

/-- Settles O16: RESET sets the registers it names, and memory only in the running destination. -/
theorem resetAction : Obligations.ResetAction := by
  intro s rest hp
  rw [step_of_nextAction hp]
  exact ⟨_, rfl, rfl, rfl, rfl, rfl, rfl, rfl, resetMemory_of_not_busy (s := { s with pending := rest }),
    fun a => read_resetMemory_outside (s := { s with pending := rest })⟩

/-! ### Which actions go on -/

theorem blockTurn_continues (s : State) : Continues (blockTurn s) := by
  by_cases hs : s.status = .busy
  · cases hi : fetch s with
    | ok i => rw [blockTurn_of_busy hs hi]; exact exec_next i s
    | error r => exact ⟨s.takeFault (rejectCause r), by simp only [blockTurn, hs, hi]⟩
  · exact ⟨s, blockTurn_of_not_busy hs⟩

theorem hostStart_continues {s : State} (hs : s.status ≠ .busy) : Continues (hostStart s) := by
  cases h : s.status with
  | busy => exact absurd h hs
  | idle => exact ⟨_, hostStart_of_ready (.inl h)⟩
  | done => exact ⟨_, hostStart_of_ready (.inr h)⟩
  | fault => exact ⟨s, hostStart_of_fault h⟩

theorem hostClear_continues {s : State} (hs : s.status ≠ .busy) : Continues (hostClear s) := by
  cases h : s.status with
  | busy => exact absurd h hs
  | idle => exact ⟨s, hostClear_of_idle h⟩
  | done => exact ⟨_, hostClear_of_ended (.inl h)⟩
  | fault => exact ⟨_, hostClear_of_ended (.inr h)⟩

theorem hostTurn_continues {a : HostAction} {s : State} (h : LegalAction s a) : Continues (hostTurn a s) := by
  cases a with
  | wait => exact blockTurn_continues s
  | write f v =>
    obtain ⟨u, n, hwrite, -⟩ := hostWrite_of_not_busy h f v
    exact ⟨_, hwrite⟩
  | start => exact hostStart_continues h.1
  | clear => exact hostClear_continues h
  | read r => exact ⟨_, hostRead_of_legal h⟩
  | reset => exact ⟨_, rfl⟩
  | memWrite a b =>
    obtain ⟨ha, hfree⟩ := h
    exact ⟨_, (if_neg (by omega)).trans (if_neg hfree)⟩
  | memRead a =>
    obtain ⟨ha, hfree⟩ := h
    exact ⟨_, (if_neg (by omega)).trans (if_neg hfree)⟩

/-- Settles O22: the block's turn always goes on, and so does every action a conforming host may take. -/
theorem legalActionContinues : Obligations.LegalActionContinues := by
  intro s
  refine ⟨fun hp => ?_, fun a rest hp hlegal => ?_, fun rest hp hs => ?_⟩
  · rw [step_of_blocksTurn (.inl ⟨hp, rfl⟩)]
    exact blockTurn_continues s
  · rw [step_of_nextAction hp]
    exact hostTurn_continues (s := { s with pending := rest }) hlegal
  · rw [step_of_nextAction hp]
    exact hostStart_continues (s := { s with pending := rest }) hs

/-- Settles O17: R296's four refusals; READ STATUS shows 1, and RESET goes on. -/
theorem busyRefusesTheHost : Obligations.BusyRefusesTheHost := by
  intro s rest hs
  refine ⟨fun f v hp => ?_, fun hp => ?_, fun hp => ?_, fun r hr hp => ?_, fun hp => ?_, fun hp => ?_⟩ <;>
    rw [step_of_nextAction hp]
  · exact if_pos hs
  · simp only [hostTurn, hostStart, hs]
  · simp only [hostTurn, hostClear, hs]
  · exact if_pos ⟨hs, hr⟩
  · exact (hostRead_of_legal fun _ => rfl).trans (by simp [readReg, statusCode, endSeen, hs])
  · exact ⟨_, rfl⟩

/-! ### Which steps change RESULT, the descriptor and the record of the written fields -/

/-- Only MAPADDR writes RESULT, and a fault leaves it (R25). -/
theorem exec_result {i : Instr} {s t : State} (h : exec i s = .next t) (hne : t.result ≠ s.result) :
    t.status = .done ∧ ∃ x y sw sh nlr, i = .mapaddr x y sw sh nlr := by
  obtain ⟨c, -, rfl⟩ | ⟨-, rfl⟩ := exec_cases h
  · exact absurd rfl hne
  · cases i with
    | mapaddr x y sw sh nlr => exact ⟨rfl, x, y, sw, sh, nlr, rfl⟩
    | _ => exact absurd rfl hne

/-- Only SPLITDOTS uses a free value (log 19). -/
theorem exec_freeCount {i : Instr} {s t : State} (h : exec i s = .next t)
    (hi : ∀ src dst sw sh nlr cm, i ≠ .splitdots src dst sw sh nlr cm) : t.freeCount = s.freeCount := by
  obtain ⟨c, -, rfl⟩ | ⟨-, rfl⟩ := exec_cases h
  · rfl
  · cases i with
    | splitdots src dst sw sh nlr cm => exact absurd rfl (hi src dst sw sh nlr cm)
    | _ => rfl

/-- Settles O30: a command keeps the host's side, and its store stays in its target's extent. -/
theorem commandFrame : Obligations.CommandFrame := by
  intro i s t h
  obtain ⟨hcfg, hdesc, hwritten, hlent, hread, hpending⟩ := exec_host h
  refine ⟨hcfg, hdesc, hwritten, hpending, hread, hlent, fun hi => ?_, exec_freeCount h, fun a ha => ?_⟩
  · by_contra hne
    obtain ⟨-, x, y, sw, sh, nlr, rfl⟩ := exec_result h hne
    exact hi x y sw sh nlr rfl
  · obtain e | ⟨u, f, hwrite, -, e⟩ := exec_mem h <;> rw [e]
    exact read_store_write_outside hwrite le_rfl ha

/-- The block's turn leaves the descriptor and the record of the written fields alone (R28). -/
theorem blockTurn_desc_written {s t : State} (h : blockTurn s = .next t) :
    t.desc = s.desc ∧ t.written = s.written := by
  obtain ⟨-, rfl⟩ | ⟨-, ⟨i, -, hexec⟩ | ⟨r, -, rfl⟩⟩ := blockTurn_cases h
  · exact ⟨rfl, rfl⟩
  · obtain ⟨-, hdesc, hwritten, -⟩ := exec_host hexec
    exact ⟨hdesc, hwritten⟩
  · exact ⟨rfl, rfl⟩

/-- A host action is the block's turn, a WRITE, a RESET, or it leaves RESULT, the descriptor and the record of
the written fields alone. -/
theorem hostTurn_cases {a : HostAction} {s t : State} (h : hostTurn a s = .next t) :
    (a = .wait ∧ blockTurn s = .next t) ∨
      (∃ f v, a = .write f v ∧ ∃ u n, t = { s.setField f u with freeCount := n }) ∨
      (a = .reset ∧ hostReset s = .next t) ∨
      ((∀ f v, a ≠ .write f v) ∧ a ≠ .reset ∧ t.result = s.result ∧ t.desc = s.desc ∧ t.written = s.written) := by
  cases a with
  | wait => exact .inl ⟨rfl, h⟩
  | write f v =>
    obtain ⟨-, ⟨-, rfl⟩ | ⟨-, u, -, rfl⟩⟩ := hostWrite_cases h <;> exact .inr (.inl ⟨f, v, rfl, _, _, rfl⟩)
  | reset => exact .inr (.inr (.inl ⟨rfl, h⟩))
  | start => obtain ⟨-, rfl⟩ | ⟨-, rfl⟩ := hostStart_cases h <;> simp
  | clear => obtain ⟨-, rfl⟩ | ⟨-, rfl⟩ := hostClear_cases h <;> simp
  | read r => obtain ⟨-, rfl⟩ := hostRead_cases h; simp
  | memWrite a b => obtain ⟨-, -, rfl⟩ := hostMemWrite_cases h; simp
  | memRead a => obtain ⟨-, -, rfl⟩ := hostMemRead_cases h; simp

/-- A turn of the block that changes RESULT ends a MAPADDR in DONE (R25). -/
theorem blockTurn_result {s t : State} (h : blockTurn s = .next t) (hne : t.result ≠ s.result) :
    s.status = .busy ∧ t.status = .done ∧ ∃ x y sw sh nlr, fetch s = .ok (.mapaddr x y sw sh nlr) := by
  obtain ⟨-, rfl⟩ | ⟨hs, ⟨i, hi, hexec⟩ | ⟨r, -, rfl⟩⟩ := blockTurn_cases h
  · exact absurd rfl hne
  · obtain ⟨hdone, x, y, sw, sh, nlr, rfl⟩ := exec_result hexec hne
    exact ⟨hs, hdone, x, y, sw, sh, nlr, hi⟩
  · exact absurd rfl hne

/-- Settles O26: a host action other than RESET keeps RESULT, and of the block's turns only a MAPADDR's that
ends in DONE does not. -/
theorem resultOnlyFromMapaddr : Obligations.ResultOnlyFromMapaddr := by
  intro s t h hne
  obtain ⟨-, hblock⟩ | ⟨a, rest, hp, hhost⟩ := step_cases h
  · exact .inr (blockTurn_result hblock hne)
  · obtain ⟨-, hblock⟩ | ⟨f, v, -, u, n, rfl⟩ | ⟨rfl, -⟩ | ⟨-, -, hresult, -⟩ := hostTurn_cases hhost
    · exact .inr (blockTurn_result (s := { s with pending := rest }) hblock hne)
    · exact absurd rfl hne
    · exact .inl ⟨rest, hp⟩
    · exact absurd hresult hne

/-- Settles O27: the block's turn keeps the descriptor, and so does every host action but WRITE and RESET. -/
theorem descriptorOnlyFromHost : Obligations.DescriptorOnlyFromHost := by
  intro s t h hne
  obtain ⟨-, hblock⟩ | ⟨a, rest, hp, hhost⟩ := step_cases h
  · exact absurd (blockTurn_desc_written hblock).1 hne
  · obtain ⟨-, hblock⟩ | ⟨f, v, rfl, -⟩ | ⟨rfl, -⟩ | ⟨-, -, -, hdesc, -⟩ := hostTurn_cases hhost
    · exact absurd (blockTurn_desc_written hblock).1 hne
    · exact ⟨rest, .inr ⟨f, v, hp⟩⟩
    · exact ⟨rest, .inl hp⟩
    · exact absurd hdesc hne

/-- After a host action a field counts as written if the action was a WRITE of it, or no RESET and it counted
before (R291 (a); log 25). -/
theorem mem_written_hostTurn {a : HostAction} {s t : State} (h : hostTurn a s = .next t) (f : Field) :
    f ∈ t.written ↔ (∃ v, a = .write f v) ∨ (f ∈ s.written ∧ a ≠ .reset) := by
  obtain ⟨rfl, hblock⟩ | ⟨g, v, rfl, u, n, rfl⟩ | ⟨rfl, hreset⟩ | ⟨hwrite, hreset, -, -, hwritten⟩ :=
    hostTurn_cases h
  · simp [(blockTurn_desc_written hblock).2]
  · simpa [eq_comm] using State.mem_written_setField (s := s) (f := g) (g := f) (v := u)
  · cases hreset
    simp
  · simp [hwrite, hreset, hwritten]

/-- Settles O60: the block's turn keeps the record, and each host action does to it what R291 (a) counts. -/
theorem writtenRecordsTheHost : Obligations.WrittenRecordsTheHost := by
  intro s t h f
  obtain ⟨hp, hblock⟩ | ⟨a, rest, hp, hhost⟩ := step_cases h
  · simp [NextAction, hp, (blockTurn_desc_written hblock).2]
  · simp [NextAction, hp, mem_written_hostTurn hhost f]

/-! ### The record of the written fields changes nothing (log 25) -/

/-- An outcome with the record of the written fields forgotten: what two runs that differ in it share. -/
def forgetWritten : Host.Outcome State Fault Refusal → Host.Outcome State Fault Refusal
  | .next t => .next { t with written := [] }
  | .fault f => .fault f
  | .refused r => .refused r

theorem eq_next_of_forgetWritten {o : Host.Outcome State Fault Refusal} {t : State}
    (h : forgetWritten o = forgetWritten (.next t)) : ∃ ws, o = .next { t with written := ws } := by
  cases o with
  | next u =>
    have hsame : { u with written := [] } = { t with written := [] } := Host.Outcome.next.inj h
    exact ⟨u.written, congrArg (fun v : State => Host.Outcome.next { v with written := u.written }) hsame⟩
  | fault f => cases h
  | refused r => cases h

theorem eq_fault_of_forgetWritten {o : Host.Outcome State Fault Refusal} {f : Fault}
    (h : forgetWritten o = forgetWritten (.fault f)) : o = .fault f := by
  cases o <;> cases h
  rfl

theorem eq_refused_of_forgetWritten {o : Host.Outcome State Fault Refusal} {r : Refusal}
    (h : forgetWritten o = forgetWritten (.refused r)) : o = .refused r := by
  cases o <;> cases h
  rfl

theorem forgetWritten_ite {c : Prop} [Decidable c] {o o' p p' : Host.Outcome State Fault Refusal}
    (ho : forgetWritten o = forgetWritten o') (hp : forgetWritten p = forgetWritten p') :
    forgetWritten (if c then o else p) = forgetWritten (if c then o' else p') := by
  split_ifs
  · exact ho
  · exact hp

theorem forgetWritten_exec (i : Instr) (s : State) (ws : List Field) :
    forgetWritten (exec i { s with written := ws }) = forgetWritten (exec i s) := by
  have heffect : { effectOf i { s with written := ws } with written := [] } =
      { effectOf i s with written := [] } := by cases i <;> rfl
  simp only [exec_eq, runJob]
  split
  · rfl
  · exact congrArg (fun u : State => Host.Outcome.next u.finish) heffect

theorem forgetWritten_blockTurn (s : State) (ws : List Field) :
    forgetWritten (blockTurn { s with written := ws }) = forgetWritten (blockTurn s) := by
  have hfetch : fetch { s with written := ws } = fetch s := rfl
  simp only [blockTurn, hfetch]
  split
  · split
    · exact forgetWritten_exec _ s ws
    · rfl
  all_goals rfl

/-- No host action looks at the record of the written fields: whether it is refused depends on STATE, the
field's width and the extents alone. -/
theorem forgetWritten_hostTurn (a : HostAction) (s : State) (ws : List Field) :
    forgetWritten (hostTurn a { s with written := ws }) = forgetWritten (hostTurn a s) := by
  cases a with
  | wait => exact forgetWritten_blockTurn s ws
  | write f v => exact forgetWritten_ite rfl (forgetWritten_ite rfl rfl)
  | start => simp only [hostTurn, hostStart]; split <;> rfl
  | clear => simp only [hostTurn, hostClear]; split <;> rfl
  | read r => exact forgetWritten_ite rfl rfl
  | reset => rfl
  | memWrite a b => exact forgetWritten_ite rfl (forgetWritten_ite rfl rfl)
  | memRead a => exact forgetWritten_ite rfl (forgetWritten_ite rfl rfl)

theorem forgetWritten_step (s : State) (ws : List Field) :
    forgetWritten (step { s with written := ws }) = forgetWritten (step s) := by
  simp only [step]
  split
  next => exact forgetWritten_blockTurn s ws
  next a rest _ => exact forgetWritten_hostTurn a { s with pending := rest } ws

/-- Settles O56: the two steps have the same outcome once the record is forgotten. -/
theorem writtenRecordChangesNothing : Obligations.WrittenRecordChangesNothing := by
  intro s ws
  have hsame := forgetWritten_step s ws
  exact ⟨fun t h => eq_next_of_forgetWritten (h ▸ hsame), fun f h => eq_fault_of_forgetWritten (h ▸ hsame),
    fun r h => eq_refused_of_forgetWritten (h ▸ hsame)⟩

/-! ### START and the command it begins (R27) -/

/-- The bytes of a descriptor decode as the descriptor does (R81, R83). -/
theorem decodeBytes_bytesOfWords {cfg : Config} {d : Desc} {i : Instr}
    (h : decodeBytes cfg (bytesOfWords (wordsOfDesc d)) = .ok (i, [])) : decodeDesc cfg d = .ok i := by
  have htake : takeDesc (bytesOfWords (wordsOfDesc d)) = some (d, []) := by
    simpa using takeDesc_bytesOfWords d []
  simp only [decodeBytes, htake] at h
  split at h <;> cases h
  assumption

/-- While BUSY, at the block's turn, the step runs the command the descriptor selects (R27; log 10). -/
theorem step_of_blocksTurn_busy {s s' : State} {i : Instr} (hturn : BlocksTurn s s') (hs : s.status = .busy)
    (hi : decodeDesc s.cfg s.desc = .ok i) : step s = exec i s' := by
  rw [step_of_blocksTurn hturn]
  obtain ⟨-, rfl⟩ | ⟨rest, -, rfl⟩ := hturn <;> exact blockTurn_of_busy hs hi

/-- Settles O10: the serialised descriptor decodes as the block's own does. -/
theorem stepRunsDecodedCommand : Obligations.StepRunsDecodedCommand :=
  fun _ _ _ hturn hs hi => step_of_blocksTurn_busy hturn hs (decodeBytes_bytesOfWords hi)

/-- Settles O11: START leaves BUSY with the command's extents handed over, and the turn after it is the block's. -/
theorem startIsOneTransition : Obligations.StartIsOneTransition := by
  intro s rest hs hp
  refine ⟨commandExtents s ++ s.lent, ?_, fun i hi => ⟨fun _ => ?_, fun later hrest => ?_⟩⟩
  · rw [step_of_nextAction hp]
    exact hostStart_of_ready hs
  · exact step_of_blocksTurn_busy (.inl ⟨rfl, rfl⟩) rfl hi
  · exact step_of_blocksTurn_busy (.inr ⟨later, hrest, rfl⟩) rfl hi

/-! ### WRITE and READ of a field (R21, R26) -/

/-- A field is no wider than the place R81 draws for it, at 32 and 16 bits (log 24). -/
theorem fieldWidth_le_std (cfg : Config) (f : Field) : fieldWidth cfg f ≤ fieldWidth Config.std f := by
  cases f <;> simp [fieldWidth, Config.addrWidth, Config.dimWidth, Config.std]

/-- A field holds as many of a written value's bits as its place in the descriptor has (R81). -/
theorem toNat_fieldBits_writeField (d : Desc) (v : Nat) (f : Field) :
    (fieldBits (writeField d v f) f).toNat = v % 2 ^ fieldWidth Config.std f := by
  cases f <;> simp [fieldBits, writeField, fieldWidth, Config.addrWidth, Config.dimWidth, Config.std] <;> omega

theorem fieldBits_writeField_of_ne (d : Desc) (v : Nat) {f g : Field} (h : g ≠ f) :
    fieldBits (writeField d v f) g = fieldBits d g := by
  have hbits : fieldBits (writeField d v f) g =
      if g = f then fieldBits (writeField d v f) f else fieldBits d g := by
    cases f <;> cases g <;> rfl
  rw [hbits, if_neg h]

theorem readField_writeField_of_ne (cfg : Config) (d : Desc) (v : Nat) {f g : Field} (h : g ≠ f) :
    readField cfg (writeField d v f) g = readField cfg d g := by
  rw [readField, readField, fieldBits_writeField_of_ne d v h]

/-- A value the field can hold is read back from it. -/
theorem toNat_readField_writeField (d : Desc) {cfg : Config} {v : Nat} {f : Field} (h : v < 2 ^ fieldWidth cfg f) :
    (readField cfg (writeField d v f) f).toNat = v := by
  have hplace : 2 ^ fieldWidth cfg f ≤ 2 ^ fieldWidth Config.std f :=
    Nat.pow_le_pow_right (by decide) (fieldWidth_le_std cfg f)
  have hword : 2 ^ fieldWidth cfg f ≤ 2 ^ 32 := Nat.pow_le_pow_right (by decide) (fieldWidth_le cfg f)
  rw [readField, toNat_fieldBits_writeField, Nat.mod_eq_of_lt (h.trans_le hplace), Nat.mod_eq_of_lt h,
    BitVec.toNat_ofNat, Nat.mod_eq_of_lt (h.trans_le hword)]

/-- Settles O14: WRITE sets its field to its own value or a free one, and touches no other field's bits. -/
theorem writeSetsOneField : Obligations.WriteSetsOneField := by
  intro s f v rest hp hs
  obtain ⟨u, n, hwrite, hfits, hwide⟩ := hostWrite_of_not_busy (s := { s with pending := rest }) hs f v
  rw [step_of_nextAction hp]
  refine ⟨writeField s.desc u f, (s.setField f u).written, n, hwrite,
    fun g hg => readField_writeField_of_ne s.cfg s.desc u hg, fun g => State.mem_written_setField,
    fun hv => ?_, hwide⟩
  obtain ⟨rfl, hn⟩ := hfits hv
  exact ⟨toNat_readField_writeField s.desc hv, hn⟩

/-- Settles O15: what a READ returns is `readReg`, the register with zeros above it. -/
theorem readReturnsRegister : Obligations.ReadReturnsRegister := by
  intro s r rest hp hs
  rw [step_of_nextAction hp]
  refine ⟨readReg s r, _, hostRead_of_legal fun hbusy => absurd hbusy hs, rfl, ?_⟩
  cases r with
  | status => cases h : s.status <;> simp [readReg, statusCode, h]
  | cause => exact BitVec.toNat_setWidth_of_le (by decide)
  | result => rfl
  | field f => rfl

end Sys2Proof.Machine

/-! PROOFS. The memory family: who may touch a byte (20_memory R50, R61, R294, R295), the checks of START over a
command's buffers (60_exceptions R262), and the bytes IDX2RGB24 and BILINEAR leave (R57, R145, R226). -/

namespace Sys2Proof.Machine

open Sys2Proof.Claims

/-! ### The checks of START (R262) -/

/-- The buffers a command's checks name as read are its sources (R66). -/
theorem sources_eq_reads (cfg : Config) (i : Instr) :
    sources i = (jobOf cfg i).reads.map fun u => (u.buf, u.need) := by
  cases i with
  | scaledownIdx | scaledownPup | scaleupIdx | centerIdx =>
    exact congrArg (fun n => [(_, n)]) (Nat.mul_one _).symm
  | _ => rfl

/-- The claims' preconditions are the ones START checks. -/
theorem params_iff_pre {cfg : Config} {i : Instr} : params cfg i ↔ (jobOf cfg i).pre = true := by
  cases i with
  | idx2rgb24 => exact iff_of_true trivial rfl
  | _ => exact Iff.symm (decide_eq_true_iff.trans Iff.rfl)

theorem forall_buffers_iff {cfg : Config} {i : Instr} {P : Buf × Nat → Prop} :
    (∀ p ∈ sources i ++ targets i, P p) ↔ ∀ u ∈ (jobOf cfg i).uses, P (u.buf, u.need) := by
  simp only [sources_eq_reads cfg, targets_eq_write cfg, ← List.map_append, List.forall_mem_map, Job.uses]

theorem spaceOk_iff_inSpace {cfg : Config} {i : Instr} :
    SpaceOk cfg i ↔ ∀ u ∈ (jobOf cfg i).uses, u.inSpace cfg := forall_buffers_iff

theorem lengthOk_iff_longEnough {cfg : Config} {i : Instr} :
    LengthOk i ↔ ∀ u ∈ (jobOf cfg i).uses, u.longEnough := forall_buffers_iff

theorem apartOk_iff_apart {cfg : Config} {i : Instr} :
    ApartOk i ↔ ∀ d ∈ (jobOf cfg i).write, ∀ u ∈ (jobOf cfg i).reads, d.apart u := by
  simp only [ApartOk, sources_eq_reads cfg, targets_eq_write cfg, List.forall_mem_map, Option.mem_toList,
    Use.apart_iff]
  rfl

/-- A command all of whose checks hold has its effect and ends in DONE. -/
theorem exec_of_checks {i : Instr} {s : State} (hparams : params s.cfg i) (hspace : SpaceOk s.cfg i)
    (hlength : LengthOk i) (hapart : ApartOk i) : exec i s = .next (effectOf i s).finish := by
  rw [exec_eq]
  exact runJob_of_ok (Job.fault_eq_none.2 ⟨params_iff_pre.1 hparams, spaceOk_iff_inSpace.1 hspace,
    lengthOk_iff_longEnough.1 hlength, apartOk_iff_apart.1 hapart⟩)

/-- The checks of a command with one source and one destination are its preconditions and `Ready`. -/
theorem exec_of_ready {i : Instr} {s : State} {src dst : Buf} {n k : Nat} (hparams : params s.cfg i)
    (hsrc : sources i = [(src, n)]) (hdst : targets i = [(dst, k)]) (hready : Ready s.cfg src n dst k) :
    exec i s = .next (effectOf i s).finish := by
  obtain ⟨⟨hsrcSpace, hsrcLen⟩, ⟨hdstSpace, hdstLen⟩, hapart⟩ := hready
  refine exec_of_checks hparams ?_ ?_ ?_ <;> simp [SpaceOk, LengthOk, ApartOk, *]

/-- Settles O29: the claims' checks are the machine's, and `Job.fault` takes the first that fails. -/
theorem checksDecideTheFault : Obligations.ChecksDecideTheFault := by
  intro i s
  have faults {c : Cause} (h : (jobOf s.cfg i).fault s.cfg = some c) :
      exec i s = .next (faultedWith s (causeCode c)) := by
    rw [exec_eq]
    exact runJob_of_fault h
  have completes := exec_of_checks (i := i) (s := s)
  simp only [params_iff_pre, spaceOk_iff_inSpace, lengthOk_iff_longEnough (cfg := s.cfg),
    apartOk_iff_apart (cfg := s.cfg)] at completes ⊢
  exact ⟨fun hp => faults (Job.fault_of_pre (Bool.eq_false_of_not_eq_true hp)),
    fun hp hs => faults (Job.fault_of_space hp hs),
    fun hp hs hl => faults (Job.fault_of_length hp hs hl),
    fun hp hs hl ha => faults (Job.fault_of_overlap hp hs hl ha),
    fun hp hs hl ha => ⟨_, completes hp hs hl ha, rfl, rfl⟩⟩

/-! ### Which bytes the block and the host may change (R61, R67, R294, R295) -/

/-- A byte a command changes is a byte of its destination, and the command ended in DONE (R67, R265). -/
theorem exec_changes {i : Instr} {s t : State} {a : Nat} (h : exec i s = .next t)
    (hne : Memory.read t.mem a ≠ Memory.read s.mem a) :
    t.status = .done ∧ ∃ d ∈ targets i, InExtent d.1 d.2 a := by
  constructor
  · obtain ⟨c, -, rfl⟩ | ⟨-, rfl⟩ := exec_cases h
    · exact absurd rfl hne
    · rfl
  · by_contra hout
    obtain e | ⟨u, f, hwrite, -, e⟩ := exec_mem h <;> rw [e] at hne
    · exact hne rfl
    · exact hne (read_store_write_outside hwrite le_rfl fun d hd ha => hout ⟨d, hd, ha⟩)

theorem blockTurn_changes {s t : State} {a : Nat} (h : blockTurn s = .next t)
    (hne : Memory.read t.mem a ≠ Memory.read s.mem a) :
    s.status = .busy ∧ t.status = .done ∧ ∃ i, fetch s = .ok i ∧ ∃ d ∈ targets i, InExtent d.1 d.2 a := by
  obtain ⟨-, rfl⟩ | ⟨hs, ⟨i, hi, hexec⟩ | ⟨r, -, rfl⟩⟩ := blockTurn_cases h
  · exact absurd rfl hne
  · obtain ⟨hdone, hdst⟩ := exec_changes hexec hne
    exact ⟨hs, hdone, i, hi, hdst⟩
  · exact absurd rfl hne

/-- Settles O28: the block's turn changes memory through `exec` alone. -/
theorem blockWritesOnlyItsTarget : Obligations.BlockWritesOnlyItsTarget := by
  intro s s' t hturn h a hne
  rw [step_of_blocksTurn hturn] at h
  obtain ⟨-, rfl⟩ | ⟨rest, -, rfl⟩ := hturn
  · exact blockTurn_changes h hne
  · exact blockTurn_changes (s := { s with pending := rest }) h hne

/-- The extents START hands over are those of the command OP selects (R294). -/
theorem commandExtents_of_select {s : State} {i : Instr} (hi : selectInstr s.cfg s.desc = some i) :
    commandExtents s = (sources i).map (fun p => ⟨p.1.base, p.2, false⟩) ++
      (targets i).map (fun p => ⟨p.1.base, p.2, true⟩) := by
  simp [commandExtents, selectedJob, hi, Job.extents, sources_eq_reads s.cfg, targets_eq_write s.cfg,
    Function.comp_def]

/-- Every buffer of a command is among the extents START hands over. -/
theorem exists_extent_of_buffer {s : State} {i : Instr} {p : Buf × Nat} {a : Nat}
    (hi : selectInstr s.cfg s.desc = some i) (hp : p ∈ sources i ++ targets i) (ha : InExtent p.1 p.2 a) :
    ∃ e ∈ commandExtents s, e.covers a := by
  rw [commandExtents_of_select hi]
  obtain hp | hp := List.mem_append.1 hp
  · exact ⟨_, List.mem_append_left _ (List.mem_map_of_mem hp), ha⟩
  · exact ⟨_, List.mem_append_right _ (List.mem_map_of_mem hp), ha⟩

/-- The destination is among them as the extent the host may not even read. -/
theorem exists_dstExtent_of_target {s : State} {i : Instr} {p : Buf × Nat} {a : Nat}
    (hi : selectInstr s.cfg s.desc = some i) (hp : p ∈ targets i) (ha : InExtent p.1 p.2 a) :
    ∃ e ∈ commandExtents s, e.isDst = true ∧ e.covers a := by
  rw [commandExtents_of_select hi]
  exact ⟨_, List.mem_append_right _ (List.mem_map_of_mem hp), rfl, ha⟩

/-- The running command's extents cover the bytes the claims call in use (R61). -/
theorem inUse_iff_running {s : State} {a : Nat} : InUse s a ↔ ∃ e ∈ runningExtents s, e.covers a := by
  unfold runningExtents
  constructor
  · rintro ⟨hs, i, hi, p, hp, ha⟩
    rw [if_pos hs]
    exact exists_extent_of_buffer hi hp ha
  · rintro ⟨e, he, ha⟩
    split_ifs at he with hs
    · cases hi : selectInstr s.cfg s.desc with
      | none => simp [commandExtents, selectedJob, hi] at he
      | some i =>
        rw [commandExtents_of_select hi, List.mem_append, List.mem_map, List.mem_map] at he
        obtain ⟨p, hp, rfl⟩ | ⟨p, hp, rfl⟩ := he
        · exact ⟨hs, i, hi, p, List.mem_append_left _ hp, ha⟩
        · exact ⟨hs, i, hi, p, List.mem_append_right _ hp, ha⟩
    · exact absurd he List.not_mem_nil

theorem storeForbidden_iff {s : State} {a : Nat} :
    storeForbidden s a ↔ InUse s a ∨ ∃ e ∈ s.lent, e.covers a := by
  simp only [storeForbidden, inUse_iff_running, List.mem_append, or_and_right, exists_or]

theorem loadForbidden_iff {s : State} {a : Nat} :
    loadForbidden s a ↔ InUse s a ∨ ∃ e ∈ s.lent, e.isDst = true ∧ e.covers a := by
  rw [inUse_iff_running]

/-! A host access is refused, or answers, as the two conditions say. -/

theorem hostMemWrite_refused {a : Nat} {b : Byte} {s : State} (ha : a < 2 ^ s.cfg.aw) (h : storeForbidden s a) :
    hostMemWrite a b s = .refused (.bufferLent a) := by
  rw [hostMemWrite, if_neg (by omega), if_pos h]

theorem hostMemRead_refused {a : Nat} {s : State} (ha : a < 2 ^ s.cfg.aw) (h : loadForbidden s a) :
    hostMemRead a s = .refused (.bufferLent a) := by
  rw [hostMemRead, if_neg (by omega), if_pos h]

theorem hostMemWrite_allowed {a : Nat} {b : Byte} {s : State} (ha : a < 2 ^ s.cfg.aw) (h : ¬ storeForbidden s a) :
    hostMemWrite a b s = .next { s with mem := Memory.store s.mem a 1 (fun _ => b) } := by
  rw [hostMemWrite, if_neg (by omega), if_neg h]

theorem hostMemRead_allowed {a : Nat} {s : State} (ha : a < 2 ^ s.cfg.aw) (h : ¬ loadForbidden s a) :
    hostMemRead a s = .next { s with readData := (Memory.read s.mem a).setWidth 32 } := by
  rw [hostMemRead, if_neg (by omega), if_neg h]

/-- Settles O18: START puts the command's extents into `lent`, the two conditions of an access look there and at
the running command's, and the READ that shows the end empties it. -/
theorem buffersAreTheBlocksUntilRead : Obligations.BuffersAreTheBlocksUntilRead := by
  refine ⟨?_, ?_, ?_⟩
  · intro s t u i rest hs hp hi hstep hkept p a hin ha
    have hlent : ∀ e ∈ commandExtents s, e ∈ u.lent := by
      rw [step_of_nextAction hp] at hstep
      cases (hostStart_of_ready (s := { s with pending := rest }) hs).symm.trans hstep
      exact fun e he => hkept e (List.mem_append_left _ he)
    refine ⟨fun hbuf b k hk => ?_, fun hdst k hk => ?_⟩ <;> rw [step_of_nextAction hk]
    · obtain ⟨e, he, hcov⟩ := exists_extent_of_buffer hi hbuf hin
      exact hostMemWrite_refused ha ⟨e, List.mem_append_right _ (hlent e he), hcov⟩
    · obtain ⟨e, he, hcov⟩ := exists_dstExtent_of_target hi hdst hin
      exact hostMemRead_refused ha (.inr ⟨e, hlent e he, hcov⟩)
  · intro u a k huse ha haction
    have huse' : InUse { u with pending := k } a := huse
    obtain ⟨b, hk⟩ | hk := haction <;> rw [step_of_nextAction hk]
    · exact hostMemWrite_refused ha (storeForbidden_iff.2 (.inl huse'))
    · exact hostMemRead_refused ha (loadForbidden_iff.2 (.inl huse'))
  · intro s t rest hs hp hstep
    rw [step_of_nextAction hp] at hstep
    obtain ⟨-, rfl⟩ := hostRead_cases hstep
    exact if_pos ⟨rfl, hs⟩

/-- Settles O19: such an access is not forbidden, a store puts one byte, and a load returns one. -/
theorem hostOwnsItsMemory : Obligations.HostOwnsItsMemory := by
  intro s a rest ha huse
  have huse' : ¬ InUse { s with pending := rest } a := huse
  refine ⟨fun b hp hfree => ?_, fun hp hfree => ?_⟩ <;> rw [step_of_nextAction hp]
  · have hallowed : ¬ storeForbidden { s with pending := rest } a := by
      rw [storeForbidden_iff]
      rintro (h | ⟨e, he, hcov⟩)
      · exact huse' h
      · exact hfree e he hcov
    exact ⟨_, hostMemWrite_allowed ha hallowed, Memory.read_store_at (o := 0) Nat.one_pos,
      fun a' ha' => Memory.read_store_outside (by omega)⟩
  · have hallowed : ¬ loadForbidden { s with pending := rest } a := by
      rw [loadForbidden_iff]
      rintro (h | ⟨e, he, hdst, hcov⟩)
      · exact huse' h
      · exact hfree e he hdst hcov
    exact ⟨_, hostMemRead_allowed ha hallowed, BitVec.toNat_setWidth_of_le (by decide)⟩

/-- Settles O20: the address is looked at before the extents. -/
theorem noMemoryBeyondTheSpace : Obligations.NoMemoryBeyondTheSpace := by
  intro s a rest ha haction
  obtain ⟨b, hp⟩ | hp := haction <;> rw [step_of_nextAction hp] <;> exact if_pos ha

/-! ### RGB565 pixels in memory (R57) -/

/-- Settles O39: of the two bytes the first of the append is the more significant one. -/
theorem rgb565ByteOrder : Obligations.Rgb565ByteOrder := by
  intro cfg m base i c
  have append (hi lo : Byte) : (hi ++ lo).toNat = lo.toNat + 256 * hi.toNat := by
    rw [BitVec.toNat_append, ← Nat.shiftLeft_add_eq_or_of_lt lo.isLt, Nat.shiftLeft_eq]
    omega
  have hlow : (c.extractLsb' 0 8).toNat = c.toNat % 256 := by simp
  have hhigh : (c.extractLsb' 8 8).toNat = c.toNat / 256 := by
    rw [BitVec.extractLsb'_toNat, Nat.shiftRight_eq_div_pow]
    omega
  refine ⟨fun h => ?_, fun h => ?_⟩ <;> simp [px16, px16Bytes, h, append, hlow, hhigh]

/-! ### IDX2RGB24 (R145) -/

/-- Settles O40: the source and the palette are apart from the destination, so the command completes, and each
destination byte is the palette byte its offset names. -/
theorem idx2rgb24Expands : Obligations.Idx2rgb24Expands := by
  intro s src pal dst n hsrc hpal hdst hapartSrc hapartPal
  have hexec : exec (.idx2rgb24 src pal dst n) s = .next (effectOf (.idx2rgb24 src pal dst n) s).finish := by
    obtain ⟨hsrcSpace, hsrcLen⟩ := hsrc
    obtain ⟨hpalSpace, hpalLen⟩ := hpal
    obtain ⟨hdstSpace, hdstLen⟩ := hdst
    refine exec_of_checks trivial ?_ ?_ ?_ <;> simp [SpaceOk, LengthOk, ApartOk, sources, targets, *]
  refine ⟨_, hexec, fun i hi c hc => ?_, fun a ha => Memory.read_store_outside ha⟩
  have hpixel : (3 * i + c) / 3 = i := by omega
  have hchannel : (3 * i + c) % 3 = c := by omega
  have hstored := Memory.read_store_at (m := s.mem) (base := dst.base) (f := idx2rgb24Byte s.mem src pal)
    (show 3 * i + c < 3 * n by omega)
  rwa [idx2rgb24Byte, hpixel, hchannel] at hstored

/-! ### RGB565 pixels in a frame (R57, R91, R141) -/

theorem px16_eq_pixel565 (cfg : Config) (m : Memory) (base i : Nat) :
    px16 cfg m base i = pixel565 cfg m base i := by
  unfold px16 pixel565
  cases cfg.byteOrder <;> rfl

/-- The pixel whose two bytes lie in memory is read from there, in either byte order. -/
theorem pixel565_of_bytes {cfg : Config} {m : Memory} {b : Buf} {w x y : Nat} {c : Rgb565}
    (h : ∀ k < 2, Memory.read m (pxAddr b 2 w x y + k) = (px16Bytes cfg c).getD k 0) :
    pixel565 cfg m b.base (y * w + x) = c := by
  have hjoin : c.extractLsb' 8 8 ++ c.extractLsb' 0 8 = c :=
    (BitVec.extractLsb'_append_extractLsb'_eq_extractLsb' rfl).trans BitVec.extractLsb'_eq_self
  have hlower := h 0 (by decide)
  have hupper := h 1 (by decide)
  rw [pxAddr, Nat.mul_comm] at hlower hupper
  rw [Nat.add_zero] at hlower
  simp only [pixel565, hlower, hupper, px16Bytes]
  cases cfg.byteOrder <;> exact hjoin

theorem toNat_extractLsb'_eq_field565 (c : Rgb565) (shift width : Nat) :
    (c.extractLsb' shift width).toNat = field565 shift width c := by
  rw [BitVec.extractLsb'_toNat, Nat.shiftRight_eq_div_pow]
  rfl

theorem toNat_pack565 {hi mid lo : Nat} (hhi : hi < 2 ^ 5) (hmid : mid < 2 ^ 6) (hlo : lo < 2 ^ 5) :
    (pack565 hi mid lo).toNat = (hi * 2 ^ 6 + mid) * 2 ^ 5 + lo := by
  have hmid' : mid <<< 5 < 2 ^ 11 := by
    rw [Nat.shiftLeft_eq]
    omega
  have hupper : hi <<< 11 ||| mid <<< 5 = (hi * 2 ^ 6 + mid) <<< 5 := by
    rw [← Nat.shiftLeft_add_eq_or_of_lt hmid']
    simp only [Nat.shiftLeft_eq]
    omega
  rw [pack565, hupper, ← Nat.shiftLeft_add_eq_or_of_lt hlo, Nat.shiftLeft_eq, BitVec.toNat_ofNat]
  omega

/-- Channels that fit their fields are read back from the packed pixel (R141). -/
theorem field565_pack565 {hi mid lo : Nat} (hhi : hi < 2 ^ 5) (hmid : mid < 2 ^ 6) (hlo : lo < 2 ^ 5) :
    field565 11 5 (pack565 hi mid lo) = hi ∧ field565 5 6 (pack565 hi mid lo) = mid ∧
      field565 0 5 (pack565 hi mid lo) = lo := by
  simp only [field565, toNat_pack565 hhi hmid hlo]
  omega

/-! ### Stored frames and canvases (R12) -/

/-- A frame stored as a destination is read back at the places of its pixels. -/
theorem read_store_frame {m : Memory} {dst : Buf} {bpp w h x y c : Nat} {f : Nat → Byte} (hc : c < bpp)
    (hx : x < w) (hy : y < h) :
    Memory.read (Memory.store m dst.base (w * h * bpp) f) (pxAddr dst bpp w x y + c) = f ((y * w + x) * bpp + c) := by
  rw [pxAddr, Nat.add_assoc, Memory.read_store_at (px_offset_lt hc hx hy)]

/-- The bytes of a canvas at its image are the image's. -/
theorem frameByte_canvas_image {bpp w ox oy iw ih x y c : Nat} (px : Nat → Nat → Pixel) (hc : c < bpp)
    (hx : x < iw) (hy : y < ih) (hw : ox + iw ≤ w) :
    frameByte bpp w (canvasPx bpp ox oy iw ih px) (((oy + y) * w + (ox + x)) * bpp + c) = (px x y).getD c 0 := by
  rw [frameByte_at _ hc (by omega), canvasPx_inside _ hx hy]

/-- The bytes of a canvas beside its image are 0. -/
theorem frameByte_canvas_border {bpp w ox oy iw ih x y c : Nat} (px : Nat → Nat → Pixel) (hc : c < bpp)
    (hx : x < w) (h : ¬ InImage ox oy iw ih x y) :
    frameByte bpp w (canvasPx bpp ox oy iw ih px) ((y * w + x) * bpp + c) = 0 := by
  rw [frameByte_at _ hc hx, canvasPx_border _ h]

/-! ### Sample coordinates as rational numbers (R222) -/

/-- The subtraction of natural numbers is the rational one, clamped at 0. -/
theorem cast_sub_eq_max (a b : Nat) : ((a - b : Nat) : ℚ) = max ((a : ℚ) - b) 0 := by
  obtain h | h := le_total b a
  · rw [Nat.cast_sub h, max_eq_left (sub_nonneg.2 (Nat.cast_le.2 h))]
  · rw [Nat.sub_eq_zero_of_le h, Nat.cast_zero, max_eq_right (sub_nonpos.2 (Nat.cast_le.2 h))]

/-- The machine's numerator over `2 * scaled` is the clamped coordinate of R222. -/
theorem coord_eq_sampleNum {i size scaled : Nat} (hsize : 1 ≤ size) (hscaled : 1 ≤ scaled) :
    coord i size scaled = (sampleNum i size scaled : ℚ) / (2 * scaled : Nat) := by
  have hcentre : ((i : ℚ) + 1 / 2) * (size / scaled) - 1 / 2 =
      (((2 * i + 1) * size : Nat) - (scaled : ℚ)) / (2 * scaled : Nat) := by
    push_cast
    field_simp
  have hlast : (size : ℚ) - 1 = ((size - 1) * (2 * scaled) : Nat) / (2 * scaled : Nat) := by
    push_cast [Nat.cast_sub hsize]
    field_simp
  have hden : (0 : ℚ) ≤ (2 * scaled : Nat) := Nat.cast_nonneg _
  rw [coord, hcentre, hlast, sampleNum, Nat.cast_min, cast_sub_eq_max, ← min_div_div_right hden,
    ← max_div_div_right hden, zero_div]

theorem lowAt_eq_sampleLow {i size scaled : Nat} (hsize : 1 ≤ size) (hscaled : 1 ≤ scaled) :
    lowAt i size scaled = sampleLow i size scaled := by
  rw [lowAt, coord_eq_sampleNum hsize hscaled, Nat.floor_div_eq_div, sampleLow]

theorem highAt_eq_sampleHigh {i size scaled : Nat} (hsize : 1 ≤ size) (hscaled : 1 ≤ scaled) :
    highAt i size scaled = sampleHigh i size scaled := by
  rw [highAt, lowAt_eq_sampleLow hsize hscaled, sampleHigh]

theorem fracAt_eq_sampleFrac {i size scaled : Nat} (hsize : 1 ≤ size) (hscaled : 1 ≤ scaled) :
    fracAt i size scaled = (sampleFrac i size scaled : ℚ) / (2 * scaled : Nat) := by
  have hden : ((2 * scaled : Nat) : ℚ) ≠ 0 := Nat.cast_ne_zero.2 (by omega)
  have hsplit : (sampleNum i size scaled : ℚ) =
      (2 * scaled : Nat) * sampleLow i size scaled + sampleFrac i size scaled := by
    exact_mod_cast (Nat.div_add_mod (sampleNum i size scaled) (2 * scaled)).symm
  rw [fracAt, lowAt_eq_sampleLow hsize hscaled, coord_eq_sampleNum hsize hscaled, hsplit]
  field_simp
  ring

theorem sampleFrac_le {i size scaled : Nat} (hscaled : 1 ≤ scaled) : sampleFrac i size scaled ≤ 2 * scaled :=
  (Nat.mod_lt _ (by omega)).le

/-! ### The interpolated value (R223) -/

section Interpolation

variable {c00 c10 c01 c11 x y sw sh scw sch n : Nat}

/-- The machine's numerator over its denominator is the rational value of R223. -/
theorem blend_eq_blendNum (hsw : 1 ≤ sw) (hsh : 1 ≤ sh) (hscw : 1 ≤ scw) (hsch : 1 ≤ sch) :
    blend c00 c10 c01 c11 (fracAt x sw scw) (fracAt y sh sch) =
      (blendNum c00 c10 c01 c11 x y sw sh scw sch : ℚ) / (2 * scw * (2 * sch) : Nat) := by
  have hdx : ((2 * scw : Nat) : ℚ) ≠ 0 := Nat.cast_ne_zero.2 (by omega)
  have hdy : ((2 * sch : Nat) : ℚ) ≠ 0 := Nat.cast_ne_zero.2 (by omega)
  rw [fracAt_eq_sampleFrac hsw hscw, fracAt_eq_sampleFrac hsh hsch, blend, blendNum, Nat.cast_mul (2 * scw)]
  simp only [Nat.cast_add, Nat.cast_mul _ (_ - _), Nat.cast_mul _ (sampleFrac _ _ _),
    Nat.cast_sub (sampleFrac_le hscw), Nat.cast_sub (sampleFrac_le hsch)]
  field_simp

/-- Weights that sum to the denominator: the value exceeds none of the four channels' bound. -/
theorem blendNum_le {bound : Nat} (hscw : 1 ≤ scw) (hsch : 1 ≤ sch) (h00 : c00 ≤ bound) (h10 : c10 ≤ bound)
    (h01 : c01 ≤ bound) (h11 : c11 ≤ bound) :
    blendNum c00 c10 c01 c11 x y sw sh scw sch ≤ bound * (2 * scw * (2 * sch)) := by
  obtain ⟨wx, hwx⟩ := Nat.exists_eq_add_of_le (sampleFrac_le (i := x) (size := sw) hscw)
  obtain ⟨wy, hwy⟩ := Nat.exists_eq_add_of_le (sampleFrac_le (i := y) (size := sh) hsch)
  simp only [blendNum, hwx, hwy, Nat.add_sub_cancel_left]
  generalize sampleFrac x sw scw = tx
  generalize sampleFrac y sh sch = ty
  calc c00 * wx * wy + c10 * tx * wy + c01 * wx * ty + c11 * tx * ty
      ≤ bound * wx * wy + bound * tx * wy + bound * wx * ty + bound * tx * ty := by gcongr
    _ = bound * ((tx + wx) * (ty + wy)) := by ring

/-- The division by which the machine rounds to the nearest is the floor after adding one half. -/
theorem floor_div_add_half {num den : Nat} (hden : 0 < den) :
    ⌊(num : ℚ) / den + 1 / 2⌋₊ = (2 * num + den) / (2 * den) := by
  have hne : (den : ℚ) ≠ 0 := Nat.cast_ne_zero.2 hden.ne'
  have hsum : (num : ℚ) / den + 1 / 2 = (2 * num + den : Nat) / (2 * den : Nat) := by
    push_cast
    field_simp
  rw [hsum, Nat.floor_div_eq_div]

/-- Rounding to the nearest does not leave the range of the value. -/
theorem nearest_le {num den bound : Nat} (hden : 0 < den) (h : num ≤ bound * den) :
    (2 * num + den) / (2 * den) ≤ bound := by
  refine Nat.le_of_lt_succ (Nat.div_lt_of_lt_mul ?_)
  rw [Nat.mul_succ, Nat.mul_assoc, Nat.mul_comm den]
  omega

/-- The default Interp is the rational value made an integer as BILINEAR_ROUND says: the clamp changes nothing,
the channels being in range (R223, R224). -/
theorem interpExact_eq_rounded (cfg : Config) (h00 : c00 < 2 ^ n) (h10 : c10 < 2 ^ n) (h01 : c01 < 2 ^ n)
    (h11 : c11 < 2 ^ n) (hsw : 1 ≤ sw) (hsh : 1 ≤ sh) (hscw : 1 ≤ scw) (hsch : 1 ≤ sch) :
    interpExact cfg.bilinearRound c00 c10 c01 c11 x y sw sh scw sch n =
      rounded cfg (blend c00 c10 c01 c11 (fracAt x sw scw) (fracAt y sh sch)) := by
  have hnum := blendNum_le (x := x) (y := y) (sw := sw) (sh := sh) hscw hsch (Nat.le_sub_one_of_lt h00)
    (Nat.le_sub_one_of_lt h10) (Nat.le_sub_one_of_lt h01) (Nat.le_sub_one_of_lt h11)
  have hden : 0 < 2 * scw * (2 * sch) := by positivity
  rw [blend_eq_blendNum hsw hsh hscw hsch]
  unfold interpExact rounded
  cases cfg.bilinearRound with
  | trunc =>
    simp only [Nat.floor_div_eq_div]
    exact Nat.min_eq_left (Nat.div_le_of_le_mul (by rwa [Nat.mul_comm]))
  | nearest =>
    simp only [floor_div_add_half hden]
    exact Nat.min_eq_left (nearest_le hden hnum)

end Interpolation

/-! ### BILINEAR (R226) -/

/-- What an Interp makes of the four source pixels that enclose the scaled image's (`x`, `y`), for the channel of
`width` bits at bit `shift` (R222, R226). -/
def interpolated (f : Interp) (cfg : Config) (m : Memory) (src : Buf) (sw sh scw sch shift width x y : Nat) : Nat :=
  let c (px py : Nat) : Nat := field565 shift width (pixel565 cfg m src.base (py * sw + px))
  f (c (lowAt x sw scw) (lowAt y sh sch)) (c (highAt x sw scw) (lowAt y sh sch))
    (c (lowAt x sw scw) (highAt y sh sch)) (c (highAt x sw scw) (highAt y sh sch)) x y sw sh scw sch width

theorem field565_lt (shift width : Nat) (c : Rgb565) : field565 shift width c < 2 ^ width :=
  Nat.mod_lt _ (Nat.two_pow_pos _)

/-- The default Interp makes of them the rational interpolation as an integer (R223, R224). -/
theorem interpolated_exact {cfg : Config} {m : Memory} {src : Buf} {sw sh scw sch shift width x y : Nat}
    (hsw : 1 ≤ sw) (hsh : 1 ≤ sh) (hscw : 1 ≤ scw) (hsch : 1 ≤ sch) :
    interpolated (interpExact cfg.bilinearRound) cfg m src sw sh scw sch shift width x y =
      rounded cfg (channelAt cfg m src sw sh scw sch shift width x y) :=
  interpExact_eq_rounded cfg (field565_lt _ _ _) (field565_lt _ _ _) (field565_lt _ _ _) (field565_lt _ _ _)
    hsw hsh hscw hsch

/-- The channels of a resampled pixel are the interpolated ones, each in its field (R91, R220). -/
theorem field565_resampledPx {cfg : Config} {m : Memory} {src : Buf} {sw sh scw sch x y : Nat} (hsw : 1 ≤ sw)
    (hsh : 1 ≤ sh) (hscw : 1 ≤ scw) (hsch : 1 ≤ sch) :
    ∀ p ∈ [(11, 5), (5, 6), (0, 5)],
      field565 p.1 p.2 (resampledPx (interpOf cfg) cfg m src sw sh scw sch x y) =
        interpolated (interpOf cfg) cfg m src sw sh scw sch p.1 p.2 x y := by
  simp only [List.forall_mem_cons, List.not_mem_nil, IsEmpty.forall_iff, implies_true, and_true, resampledPx,
    interpolated, hi565, mid565, lo565, toNat_extractLsb'_eq_field565, px16_eq_pixel565,
    lowAt_eq_sampleLow hsw hscw, lowAt_eq_sampleLow hsh hsch, highAt_eq_sampleHigh hsw hscw,
    highAt_eq_sampleHigh hsh hsch]
  exact field565_pack565 (interpOf_lt ..) (interpOf_lt ..) (interpOf_lt ..)

/-- The scaled image fits the canvas (R221). -/
theorem scaledSize_le (sw sh dw dh : Nat) :
    (scaledSize sw sh dw dh).1 ≤ dw ∧ (scaledSize sw sh dw dh).2 ≤ dh := by
  unfold scaledSize
  split_ifs with h
  · exact ⟨le_rfl, Nat.div_le_of_le_mul h.le⟩
  · exact ⟨Nat.div_le_of_le_mul (by rw [Nat.mul_comm dh, Nat.mul_comm sh]; omega), le_rfl⟩

/-- BILINEAR completes: in the canvas the scaled image's pixels have the interpolated channels, the border is
zero, and the rest of memory stays (R226). -/
theorem exec_bilinear {s : State} {src dst : Buf} {sw sh dw dh : Nat} (hsw : 1 ≤ sw) (hsh : 1 ≤ sh) (hdw : 1 ≤ dw)
    (hdh : 1 ≤ dh) (hready : Ready s.cfg src (2 * sw * sh) dst (2 * dw * dh)) :
    ∃ m, exec (.bilinear src dst sw sh dw dh) s = .next (doneWith s m) ∧
      (∀ scw sch, fitSize sw sh dw dh = (scw, sch) →
        (∀ x < scw, ∀ y < sch, ∀ p ∈ [(11, 5), (5, 6), (0, 5)],
          field565 p.1 p.2 (pixel565 s.cfg m dst.base (((dh - sch) / 2 + y) * dw + ((dw - scw) / 2 + x))) =
            interpolated (interpOf s.cfg) s.cfg s.mem src sw sh scw sch p.1 p.2 x y) ∧
        ZeroBorder m dst 2 dw dh ((dw - scw) / 2) ((dh - sch) / 2) scw sch) ∧
      KeepsOutside s m dst (2 * dw * dh) := by
  refine ⟨_, exec_of_ready (i := .bilinear src dst sw sh dw dh) ⟨hsw, hsh, hdw, hdh⟩ rfl rfl hready,
    fun scw sch hfit => ?_, fun a ha => Memory.read_store_outside ha⟩
  have hscaled : scaledSize sw sh dw dh = (scw, sch) := hfit
  obtain ⟨hscw, hsch⟩ : scw ≤ dw ∧ sch ≤ dh := by simpa [hscaled] using scaledSize_le sw sh dw dh
  have hsize : 2 * dw * dh = dw * dh * 2 := by ring
  have hread {x y c : Nat} (hx : x < dw) (hy : y < dh) (hc : c < 2) :=
    read_store_frame (m := s.mem) (dst := dst) (f := bilinearByte (interpOf s.cfg) s.cfg s.mem src sw sh dw dh)
      hc hx hy
  simp only [effectOf, State.storeDst_mem, hsize, ZeroBorder]
  constructor
  · intro x hx y hy
    rw [pixel565_of_bytes (c := resampledPx (interpOf s.cfg) s.cfg s.mem src sw sh scw sch x y)]
    · exact field565_resampledPx hsw hsh (by omega) (by omega)
    · intro k hk
      rw [hread (by omega) (by omega) hk]
      simp only [bilinearByte, hscaled]
      exact frameByte_canvas_image _ hk hx hy (by omega)
  · intro x hx y hy hborder c hc
    rw [hread hx hy hc]
    simp only [bilinearByte, hscaled]
    exact frameByte_canvas_border _ hc hx hborder

/-- Settles O59: the machine's Interp is the default, or the free function clamped. -/
theorem bilinearRunsInterp : Obligations.BilinearRunsInterp := by
  intro s src dst sw sh dw dh hsw hsh hdw hdh hready
  obtain ⟨m, hexec, hcanvas, hframe⟩ := exec_bilinear hsw hsh hdw hdh hready
  refine ⟨m, hexec, fun scw sch hfit => ?_, hframe⟩
  obtain ⟨himage, hborder⟩ := hcanvas scw sch hfit
  refine ⟨fun x hx y hy p hp => ?_, hborder⟩
  have hshown := himage x hx y hy p hp
  refine ⟨fun hinterp => ?_, fun id hinterp => ?_⟩ <;>
    simpa only [interpolated, interpOf, hinterp] using hshown

/-- Settles O52: the default Interp of the enclosing pixels is their rational interpolation, rounded. -/
theorem bilinearResult : Obligations.BilinearResult := by
  intro s src dst sw sh dw dh hinterp hsw hsh hdw hdh hready
  obtain ⟨m, hexec, hcanvas, hframe⟩ := exec_bilinear hsw hsh hdw hdh hready
  refine ⟨m, hexec, fun scw sch hfit => ?_, hframe⟩
  obtain ⟨himage, hborder⟩ := hcanvas scw sch hfit
  refine ⟨fun x hx y hy p hp => ?_, hborder⟩
  have hexact : interpOf s.cfg = interpExact s.cfg.bilinearRound := by
    funext
    simp only [interpOf, hinterp]
  rw [himage x hx y hy p hp, hexact, interpolated_exact hsw hsh (by omega) (by omega)]

end Sys2Proof.Machine

/-! PROOFS. The encoding family: the descriptor and its 48 bytes (30_encoding R81 to R83), what decoding yields
(R84), the two faults of a START without a command (R85, R86), the fields a command ignores (R87), and the
commands and formats of R89 to R95. -/

namespace Sys2Proof

/-! ### Bytes and words -/

/-- The four bytes a word is put together from are its bytes (R83). -/
theorem bytesOfWord_wordOfBytes (b0 b1 b2 b3 : Byte) :
    bytesOfWord (wordOfBytes b0 b1 b2 b3) = [b0, b1, b2, b3] := by
  have h0 : (wordOfBytes b0 b1 b2 b3).extractLsb' 0 8 = b0 := BitVec.extractLsb'_append_eq_right
  have above0 (start : Nat) :
      (wordOfBytes b0 b1 b2 b3).extractLsb' (8 + start) 8 = (b3 ++ b2 ++ b1).extractLsb' start 8 :=
    extract_append_above _ b0 start 8
  have above1 (start : Nat) := (above0 (8 + start)).trans (extract_append_above _ b1 start 8)
  have h1 := (above0 0).trans BitVec.extractLsb'_append_eq_right
  have h2 := (above1 0).trans BitVec.extractLsb'_append_eq_right
  have h3 := (above1 8).trans BitVec.extractLsb'_append_eq_left
  rw [bytesOfWord, h0, h1, h2, h3]

@[simp] theorem length_bytesOfWords (ws : List Word) : (bytesOfWords ws).length = 4 * ws.length := by
  induction ws with
  | nil => rfl
  | cons w ws ih =>
    simp only [bytesOfWords, bytesOfWord, List.length_append, List.length_cons, List.length_nil, ih]
    omega

/-- Bytes that are taken as words are those words' bytes. -/
theorem eq_bytesOfWords_of_takeWords {n : Nat} {bs rest : List Byte} {ws : List Word}
    (h : takeWords n bs = some (ws, rest)) : bs = bytesOfWords ws ++ rest := by
  induction n, bs using takeWords.induct generalizing ws rest with
  | case1 bs => cases h; rfl
  | case2 n b0 b1 b2 b3 bs ws' rest' htake ih =>
    simp only [takeWords, htake] at h
    cases h
    simp [bytesOfWords, bytesOfWord_wordOfBytes, ih htake]
  | case3 n b0 b1 b2 b3 bs htake ih => simp [takeWords, htake] at h
  | case4 n bs hshort => simp [takeWords] at h

/-- Adjacent fields of a word, put side by side, are the bits they cover. -/
theorem append_adjacent_fields (w : Word) (start low high : Nat) :
    w.extractLsb' (start + low) high ++ w.extractLsb' start low = w.extractLsb' start (high + low) :=
  BitVec.extractLsb'_append_extractLsb'_eq_extractLsb' rfl

/-- The words of the descriptor read from twelve words are those words: the fields leave no bit out (R81). -/
theorem wordsOfDesc_of_descOfWords {ws : List Word} {d : Desc} (h : descOfWords ws = some d) :
    wordsOfDesc d = ws := by
  unfold descOfWords at h
  split at h
  next w0 w1 w2 w3 w4 w5 w6 w7 w8 w9 w10 w11 =>
    have halves (w : Word) : w.extractLsb' 16 16 ++ w.extractLsb' 0 16 = w :=
      (append_adjacent_fields w 0 16 16).trans BitVec.extractLsb'_eq_self
    have hw0 : w0.extractLsb' 8 24 ++ w0.extractLsb' 0 8 = w0 :=
      (append_adjacent_fields w0 0 8 24).trans BitVec.extractLsb'_eq_self
    have hw9 : w9.extractLsb' 16 16 ++ w9.extractLsb' 12 4 ++ w9.extractLsb' 8 4 ++ w9.extractLsb' 5 3 ++
        w9.extractLsb' 4 1 ++ w9.extractLsb' 0 4 = w9 := by
      rw [append_adjacent_fields w9 12 4 16, append_adjacent_fields w9 8 4 20, append_adjacent_fields w9 5 3 24,
        append_adjacent_fields w9 4 1 27, append_adjacent_fields w9 0 4 28, BitVec.extractLsb'_eq_self]
    cases h
    simp only [wordsOfDesc, halves, hw0, hw9]
  · cases h

/-- Bytes that read as a descriptor begin with its serialisation. -/
theorem eq_bytesOfWords_of_takeDesc {bs rest : List Byte} {d : Desc} (h : takeDesc bs = some (d, rest)) :
    bs = bytesOfWords (wordsOfDesc d) ++ rest := by
  unfold takeDesc at h
  split at h
  next ws rest' htake =>
    split at h
    next d' hdesc =>
      cases h
      rw [wordsOfDesc_of_descOfWords hdesc]
      exact eq_bytesOfWords_of_takeWords htake
    · cases h
  · cases h

/-- Settles O2: both directions of the serialisation, word by word and field by field. -/
theorem serialisationIsFaithful : Obligations.SerialisationIsFaithful :=
  ⟨fun d rest => ⟨length_bytesOfWords _, takeDesc_bytesOfWords d rest⟩,
    fun _ _ _ h => eq_bytesOfWords_of_takeDesc h⟩

/-- Settles O3: a field of `len` bits from bit `start` on is the word divided by `2 ^ start`, modulo `2 ^ len`. -/
theorem fieldsAreReadFromTheirBits : Obligations.FieldsAreReadFromTheirBits := by
  intro w0 w1 w2 w3 w4 w5 w6 w7 w8 w9 w10 w11
  have field (w : Word) (start len : Nat) : (w.extractLsb' start len).toNat = w.toNat / 2 ^ start % 2 ^ len := by
    rw [BitVec.extractLsb'_toNat, Nat.shiftRight_eq_div_pow]
  refine ⟨_, rfl, ?_⟩
  simp only [field, true_and]
  omega

/-! ### What decoding yields -/

theorem addrOf_lt (cfg : Config) (v : Word) : addrOf cfg v < 2 ^ cfg.addrWidth := Nat.mod_lt _ (Nat.two_pow_pos _)

theorem dimOf_lt (cfg : Config) (v : BitVec 16) : dimOf cfg v < 2 ^ cfg.dimWidth := Nat.mod_lt _ (Nat.two_pow_pos _)

@[simp] theorem fitsBuf_addrOf (cfg : Config) (base len : Word) : fitsBuf cfg ⟨addrOf cfg base, len.toNat⟩ = true :=
  fitsBuf_iff.2 ⟨addrOf_lt cfg base, len.isLt⟩

@[simp] theorem fitsSize_dimOf (cfg : Config) (w h : BitVec 16) : fitsSize cfg (dimOf cfg w) (dimOf cfg h) = true :=
  fitsSize_iff.2 ⟨dimOf_lt cfg w, dimOf_lt cfg h⟩

@[simp] theorem fitsDim_dimOf (cfg : Config) (v : BitVec 16) : fitsDim cfg (dimOf cfg v) = true :=
  fitsDim_iff.2 (dimOf_lt cfg v)

@[simp] theorem fitsWord_toNat (v : Word) : fitsWord v.toNat = true := fitsWord_iff.2 v.isLt

@[simp] theorem fitsNibble_toNat (v : BitVec 4) : fitsNibble v.toNat = true := fitsNibble_iff.2 v.isLt

/-- The command an OP selects is that OP's, and its operands fit their fields (R84). -/
theorem wellFormed_of_selectInstr {cfg : Config} {d : Desc} {i : Instr} (h : selectInstr cfg d = some i) :
    WellFormed cfg i = true ∧ opcode i = d.op := by
  unfold selectInstr at h
  split at h <;> cases h
  all_goals
    exact ⟨by simp [WellFormed, srcOf, dstOf, palOf], BitVec.eq_of_toNat_eq (Eq.symm ‹_›)⟩

/-- An OP selects a command exactly when it is 0x01 to 0x0C (R85). -/
theorem exists_selectInstr_iff {cfg : Config} {d : Desc} :
    (∃ i, selectInstr cfg d = some i) ↔ 0x01 ≤ d.op.toNat ∧ d.op.toNat ≤ 0x0C := by
  unfold selectInstr
  constructor
  · rintro ⟨i, h⟩
    split at h
    case h_13 => cases h
    all_goals omega
  · intro h
    split
    case h_13 =>
      simp only [imp_false] at *
      omega
    all_goals exact ⟨_, rfl⟩

theorem decodeDesc_eq_ok {cfg : Config} {d : Desc} {i : Instr} :
    decodeDesc cfg d = .ok i ↔ selectInstr cfg d = some i ∧ reservedClear d = true := by
  unfold decodeDesc
  split
  · simp [*]
  · split_ifs with hr <;> simp [*]

/-- The bytes that decode to a command are its descriptor's, and that descriptor selects it. -/
theorem exists_desc_of_decodeBytes {cfg : Config} {bs rest : List Byte} {i : Instr}
    (h : decodeBytes cfg bs = .ok (i, rest)) :
    ∃ d, takeDesc bs = some (d, rest) ∧ selectInstr cfg d = some i := by
  unfold decodeBytes at h
  split at h
  · cases h
  next d rest' htake =>
    split at h
    · cases h
    next i' hdecode =>
      cases h
      exact ⟨d, htake, (decodeDesc_eq_ok.1 hdecode).1⟩

/-- OP is the first byte of the serialisation (R81). -/
theorem getElem?_zero_bytesOfWords (d : Desc) (rest : List Byte) :
    (bytesOfWords (wordsOfDesc d) ++ rest)[0]? = some d.op :=
  congrArg some (BitVec.extractLsb'_append_eq_right (a := d.rsvW0))

/-- Settles O4: the bytes are those of the descriptor that selected the command. -/
theorem decodedCommandIsWellFormed : Obligations.DecodedCommandIsWellFormed := by
  intro cfg bs i rest h
  obtain ⟨d, htake, hselect⟩ := exists_desc_of_decodeBytes h
  obtain ⟨hwf, hop⟩ := wellFormed_of_selectInstr hselect
  rw [eq_bytesOfWords_of_takeDesc htake, hop]
  refine ⟨hwf, ?_, getElem?_zero_bytesOfWords d rest⟩
  rw [List.length_append, length_bytesOfWords]
  rfl

/-- Words that are a well-formed command's decode to it. -/
theorem decodeBytes_of_words {cfg : Config} {ws : List Word} {i : Instr} (hws : ws = wordsOfDesc (descOfInstr i))
    (hwf : WellFormed cfg i = true) : decodeBytes cfg (bytesOfWords ws) = .ok (i, []) := by
  simpa [encode, hws] using decodeInvertsEncode cfg i [] hwf

/-- Settles O5: each list of words is its command's encoding. -/
theorem specWordsDecode : Obligations.SpecWordsDecode :=
  ⟨decodeBytes_of_words (by decide) (by decide), decodeBytes_of_words (by decide) (by decide),
    decodeBytes_of_words (by decide) (by decide)⟩

end Sys2Proof

namespace Sys2Proof.Machine

open Sys2Proof.Claims

/-! ### START without a command (R85, R86) -/

/-- START from IDLE or DONE and the block's turn after it: the turn finds BUSY, CAUSE 0 and the command's extents
handed over (R27). -/
theorem startEnds_iff {s t : State} (h : Startable s) :
    StartEnds s t ↔
      blockTurn { s with status := .busy, cause := 0, pending := [], lent := commandExtents s ++ s.lent } =
        .next t := by
  obtain ⟨hs, hp⟩ := h
  have hstart := (step_of_nextAction hp).trans (hostStart_of_ready (s := { s with pending := [] }) hs)
  constructor
  · rintro ⟨u, hu, ht⟩
    cases hstart.symm.trans hu
    exact ht
  · exact fun ht => ⟨_, hstart, ht⟩

theorem blockTurn_of_reject {s : State} {r : Reject} (hs : s.status = .busy) (hr : fetch s = .error r) :
    blockTurn s = .next (s.takeFault (rejectCause r)) := by
  simp only [blockTurn, hs, hr]

/-- A START whose descriptor selects no command ends in FAULT, and of the registers only STATE and CAUSE change
(R265). -/
theorem startEnds_of_reject {s : State} {r : Reject} (h : Startable s) (hr : decodeDesc s.cfg s.desc = .error r) :
    ∃ l, StartEnds s
      { s with status := .fault, cause := causeCode (rejectCause r), pending := [], lent := l } :=
  ⟨_, (startEnds_iff h).2 (blockTurn_of_reject rfl hr)⟩

theorem exec_cause_ne_illegalOp {i : Instr} {s t : State} (h : exec i s = .next t) : t.cause ≠ 1 := by
  obtain ⟨c, hc, rfl⟩ | ⟨-, rfl⟩ := exec_cases h
  · obtain rfl | rfl | rfl := Job.fault_range hc <;> simp [causeCode]
  · simp

theorem decodeDesc_of_unassigned {cfg : Config} {d : Desc} (h : ¬ (0x01 ≤ d.op.toNat ∧ d.op.toNat ≤ 0x0C)) :
    decodeDesc cfg d = .error (.illegalOp d.op) := by
  have hnone : selectInstr cfg d = none := by
    rw [← exists_selectInstr_iff (cfg := cfg), ← Option.isSome_iff_exists] at h
    simpa using h
  simp only [decodeDesc, hnone]

theorem decodeDesc_of_reserved {cfg : Config} {d : Desc} (hop : 0x01 ≤ d.op.toNat ∧ d.op.toNat ≤ 0x0C)
    (hr : reservedClear d = false) : decodeDesc cfg d = .error .reservedBits := by
  obtain ⟨i, hi⟩ := exists_selectInstr_iff (cfg := cfg).2 hop
  simp [decodeDesc, hi, hr]

/-- Settles O6: such an OP selects no command, and no command's own check gives ILLEGAL_OP. -/
theorem unassignedOpFaults : Obligations.UnassignedOpFaults := by
  intro s hs
  refine ⟨fun hop => ?_, fun hlo hhi t ht => ?_⟩
  · refine startEnds_of_reject hs (decodeDesc_of_unassigned (cfg := s.cfg) ?_)
    obtain h | h := hop
    · simp [h]
    · omega
  · obtain ⟨hidle, -⟩ | ⟨-, ⟨i, -, hexec⟩ | ⟨r, hr, rfl⟩⟩ := blockTurn_cases ((startEnds_iff hs).1 ht)
    · exact absurd rfl hidle
    · exact exec_cause_ne_illegalOp hexec
    · obtain ⟨i, hi⟩ := exists_selectInstr_iff (cfg := s.cfg).2 ⟨hlo, hhi⟩
      simp only [fetch, decodeDesc, hi] at hr
      split_ifs at hr
      cases hr
      simp [rejectCause, causeCode]

/-- Settles O7: the OP selects a command, which the reserved bits have refused. -/
theorem reservedBitsFault : Obligations.ReservedBitsFault := by
  intro s hs hlo hhi hbits
  have hr : reservedClear s.desc = false := by
    simp only [reservedClear, decide_eq_false_iff_not]
    tauto
  exact startEnds_of_reject hs (decodeDesc_of_reserved ⟨hlo, hhi⟩ hr)

/-! ### Fields without effect (R87) -/

/-- A command looks at its operands and not at the descriptor. -/
theorem exec_of_desc {i : Instr} {s t : State} (h : exec i s = .next t) (d : Desc) :
    exec i { s with desc := d } = .next { t with desc := d } := by
  have heffect : effectOf i { s with desc := d } = { effectOf i s with desc := d } := by cases i <;> rfl
  refine (exec_eq i _).trans ?_
  obtain ⟨c, hfault, rfl⟩ | ⟨hok, rfl⟩ := exec_cases h
  · exact runJob_of_fault hfault
  · exact (runJob_of_ok (s := { s with desc := d }) hok).trans (by rw [heffect]; rfl)

theorem setWidth_word_inj {n : Nat} (hn : n ≤ 32) {x y : BitVec n} : x.setWidth 32 = y.setWidth 32 ↔ x = y := by
  refine ⟨fun h => ?_, congrArg _⟩
  simpa [BitVec.setWidth_setWidth_of_le _ hn] using congrArg (BitVec.setWidth n) h

/-- Two descriptors that agree on the fields R84 lists for their OP select the same command (R87): in each row of
the command table the operands are read from the listed fields alone. -/
theorem selectInstr_congr {cfg : Config} {d d' : Desc}
    (h : ∀ g ∈ usedFields d.op.toNat, fieldBits d' g = fieldBits d g) : selectInstr cfg d' = selectInstr cfg d := by
  have hop : d'.op = d.op := (setWidth_word_inj (by decide)).1 (h .op List.mem_cons_self)
  unfold selectInstr
  rw [hop]
  unfold usedFields at h
  split at h
  all_goals
    simp only [List.cons_append, List.nil_append, List.forall_mem_cons, fieldBits, setWidth_word_inj,
      Nat.reduceLeDiff] at h
    simp only [srcOf, dstOf, palOf, *]

theorem op_writeField {d : Desc} {v : Nat} {f : Field} (h : f ≠ .op) : (writeField d v f).op = d.op := by
  cases f with
  | op => exact absurd rfl h
  | _ => rfl

theorem reservedClear_writeField {d : Desc} {v : Nat} {f : Field} (hw0 : f ≠ .rsvW0) (hlo : f ≠ .rsvW9lo)
    (hhi : f ≠ .rsvW9hi) : reservedClear (writeField d v f) = reservedClear d := by
  cases f with
  | rsvW0 => exact absurd rfl hw0
  | rsvW9lo => exact absurd rfl hlo
  | rsvW9hi => exact absurd rfl hhi
  | _ => rfl

/-- A field that is neither OP nor a reserved group is in the way of no decoding, where the OP does not use it. -/
theorem decodeDesc_writeField {cfg : Config} {d : Desc} {v : Nat} {f : Field} (hf : f ∉ usedFields d.op.toNat)
    (hw0 : f ≠ .rsvW0) (hlo : f ≠ .rsvW9lo) (hhi : f ≠ .rsvW9hi) :
    decodeDesc cfg (writeField d v f) = decodeDesc cfg d := by
  have hselect : selectInstr cfg (writeField d v f) = selectInstr cfg d :=
    selectInstr_congr fun g hg => fieldBits_writeField_of_ne d v fun e => hf (e ▸ hg)
  have hop : f ≠ .op := fun e => hf (e ▸ List.mem_cons_self)
  rw [decodeDesc, decodeDesc, hselect, op_writeField hop, reservedClear_writeField hw0 hlo hhi]

/-- Settles O9: the other descriptor selects the same command, or none for the same reason. -/
theorem unusedFieldsAreIgnored : Obligations.UnusedFieldsAreIgnored := by
  intro s t f v hp hs hf hw0 hlo hhi h
  have hturn : blockTurn s = .next t := step_of_blocksTurn (.inl ⟨hp, rfl⟩) ▸ h
  have hfetch : fetch { s with desc := writeField s.desc v f } = fetch s := decodeDesc_writeField hf hw0 hlo hhi
  refine (step_of_blocksTurn (s := { s with desc := writeField s.desc v f }) (.inl ⟨hp, rfl⟩)).trans ?_
  rw [(blockTurn_desc_written hturn).1]
  obtain ⟨hidle, -⟩ | ⟨-, ⟨i, hi, hexec⟩ | ⟨r, hr, rfl⟩⟩ := blockTurn_cases hturn
  · exact absurd hs hidle
  · exact (blockTurn_of_busy (s := { s with desc := writeField s.desc v f }) hs (hfetch.trans hi)).trans
      (exec_of_desc hexec _)
  · exact blockTurn_of_reject (s := { s with desc := writeField s.desc v f }) hs (hfetch.trans hr)

/-! ### Commands that are others with BPP 1 (R89) -/

/-- Commands with the same checks and the same effect are the same. -/
theorem exec_congr {i j : Instr} {s : State} (hjob : jobOf s.cfg i = jobOf s.cfg j)
    (heffect : effectOf i = effectOf j) : exec i s = exec j s := by
  rw [exec_eq, exec_eq, hjob, heffect]

/-- Settles O32: the checks of the two commands are the same, and so is what they store. -/
theorem commandIdentities : Obligations.CommandIdentities := by
  intro src dst sw sh dw dh s
  refine ⟨fun hbpp => ⟨exec_congr ?_ rfl, exec_congr ?_ rfl, exec_congr ?_ rfl⟩,
    fun hsw hsh hdw hdh => exec_congr ?_ rfl⟩
  · simp only [jobOf, jobScaleupIdx, jobScaleup, hbpp, true_and]
  · simp only [jobOf, jobCenterIdx, jobCenter, hbpp, true_and]
  · simp only [jobOf, jobScaledownPup, jobScaledown, hbpp, true_and]
  · simp only [jobOf, jobScaledownIdx, jobScaledownPup, NarrowPre, hsw, hsh, hdw, hdh, true_and]

/-! ### The channels of an RGB565 pixel (R91, R141, R142) -/

theorem toNat_fields565 (c : Rgb565) :
    (hi565 c).toNat = c.toNat / 2 ^ 11 ∧ (mid565 c).toNat = c.toNat / 2 ^ 5 % 2 ^ 6 ∧
      (lo565 c).toNat = c.toNat % 2 ^ 5 := by
  refine ⟨?_, toNat_extractLsb'_eq_field565 c 5 6, ?_⟩
  · rw [hi565, toNat_extractLsb'_eq_field565, field565]
    omega
  · rw [lo565, toNat_extractLsb'_eq_field565, field565]
    omega

/-- Settles O37: the split gives the three fields, and packing them is the pixel's own number. -/
theorem channelsOf565 : Obligations.ChannelsOf565 := by
  intro c
  obtain ⟨hhi, hmid, hlo⟩ := toNat_fields565 c
  refine ⟨by simp only [ch565, hhi, hmid, hlo], by simp only [ch565, hhi, hmid, hlo], ?_⟩
  refine BitVec.eq_of_toNat_eq ?_
  rw [toNat_pack565] <;> omega

theorem toNat_threeBits_low3 {n : Nat} (field : BitVec n) : (threeBits .low3 field).toNat = field.toNat % 8 := by
  rw [threeBits, BitVec.extractLsb'_toNat, Nat.shiftRight_zero]

theorem toNat_threeBits_high3 {n : Nat} (hn : 3 ≤ n) (field : BitVec n) :
    (threeBits .high3 field).toNat = field.toNat / 2 ^ (n - 3) := by
  rw [threeBits, BitVec.extractLsb'_toNat, Nat.shiftRight_eq_div_pow]
  refine Nat.mod_eq_of_lt (Nat.div_lt_of_lt_mul ?_)
  rw [← Nat.pow_add, Nat.sub_add_cancel hn]
  exact field.isLt

/-- Settles O38: the three bits of each field, put in the order ColorMatrix names. -/
theorem threeBitChannels : Obligations.ThreeBitChannels := by
  intro cfg c hi mid lo three
  obtain ⟨hhi, hmid, hlo⟩ := toNat_fields565 c
  refine ⟨fun hsel cm => ?_, fun hsel cm => ?_⟩
  · cases cm <;> simp only [three, ch3, hsel, toNat_threeBits_low3, hhi, hmid, hlo, hi, mid, lo]
  · cases cm <;>
      simp [three, ch3, hsel, toNat_threeBits_high3, hhi, hmid, hlo, hi, mid, lo]

/-! ### Blocks of bytes, and bits of a byte -/

/-- Byte `i` of block `k`, of blocks of `size` bytes one after another. -/
theorem block_offset {k n i size : Nat} (hk : k < n) (hi : i < size) :
    k * size + i < n * size ∧ (k * size + i) / size = k ∧ (k * size + i) % size = i := by
  refine ⟨?_, ?_, ?_⟩
  · calc k * size + i < (k + 1) * size := by rw [Nat.succ_mul]; omega
      _ ≤ n * size := Nat.mul_le_mul_right _ hk
  · rw [Nat.mul_comm, Nat.mul_add_div (by omega), Nat.div_eq_of_lt hi, Nat.add_zero]
  · rw [Nat.mul_comm, Nat.mul_add_mod, Nat.mod_eq_of_lt hi]

theorem exists_block_offset {n size o : Nat} (h : o < n * size) :
    ∃ k i, k < n ∧ i < size ∧ o = k * size + i :=
  ⟨o / size, o % size, Nat.div_lt_of_lt_mul (Nat.mul_comm n size ▸ h),
    Nat.mod_lt _ (Nat.pos_of_ne_zero fun h0 => by simp [h0] at h), (Nat.div_add_mod' o size).symm⟩

theorem getLsbD_ofBool_shiftLeft (b : Bool) (n : Nat) {v : Nat} (hv : v < 8) :
    ((BitVec.ofBool b).setWidth 8 <<< n : Byte).getLsbD v = (decide (v = n) && b) := by
  obtain h | rfl | h := lt_trichotomy v n
  · simp [h, h.ne]
  · simp [hv]
  · simp [h.ne', Nat.sub_ne_zero_of_lt h]

/-- A byte put together bit by bit has the bits it was put together from. -/
theorem getLsbD_foldl_or_bits (f : Nat → Bool) (n : Nat) {v : Nat} (hv : v < 8) :
    ((List.range n).foldl (fun byte j => byte ||| (BitVec.ofBool (f j)).setWidth 8 <<< j) (0 : Byte)).getLsbD v =
      (decide (v < n) && f v) := by
  induction n with
  | zero => simp
  | succ n ih =>
    rw [List.range_succ, List.foldl_append, List.foldl_cons, List.foldl_nil, BitVec.getLsbD_or, ih,
      getLsbD_ofBool_shiftLeft (f n) n hv]
    obtain h | rfl | h := lt_trichotomy v n
    · simp [h, h.ne, h.trans n.lt_succ_self]
    · simp
    · simp [h.ne', h.not_gt, Nat.not_lt.2 (Nat.succ_le_of_lt h)]

/-! ### SPLITPLANES (R93, R150) -/

theorem getLsbD_planeByte (m : Memory) (src : Buf) (i k : Nat) {v : Nat} (hv : v < 8) :
    (planeByte m src i k).getLsbD v = (bufByte m src (8 * k + v)).getLsbD i := by
  rw [planeByte, getLsbD_foldl_or_bits _ 8 hv, decide_eq_true hv, Bool.true_and]

/-- Settles O41: the checks hold, and byte `k` of plane `i` is the one at offset `i * P + k`. -/
theorem splitplanesSplits : Obligations.SplitplanesSplits := by
  intro s src dst w h bitlen hw hw8 hh hb1 hbmax hready
  refine ⟨_, exec_of_ready (i := .splitplanes src dst w h bitlen) ⟨⟨hw, hw8⟩, hh, hb1, hbmax⟩ rfl rfl hready,
    fun i hi k hk v hv => ?_, fun a ha => Memory.read_store_outside ha⟩
  obtain ⟨hoff, hplane, hrun⟩ := block_offset hi hk
  rw [effectOf, State.storeDst_mem, planeSize, Memory.read_store_at hoff, hplane, hrun,
    getLsbD_planeByte _ _ _ _ hv]
  rfl

/-! ### Where MapAddr puts a pixel (R122, R123, R126)

On a legal panel the index is a number of three digits: the logical row, the matrix in it, and the dot of the
matrix in it; a panel has `n` rows of `w / 32 * (h / 32)` matrices of `512 / n` dots. -/

theorem matrixNumber_eq {x y w h : Nat} (hy : y < h) (hh : h % 32 = 0) :
    matrixNumber x y w h = (h / 32 - 1 - y / 32) * (w / 32) + x / 32 := by
  have hcount : w / 32 * (h / 32) - (y / 32 + 1) * (w / 32) = (h / 32 - 1 - y / 32) * (w / 32) := by
    rw [Nat.mul_comm (w / 32), ← Nat.sub_mul]
    congr 1
    omega
  rw [matrixNumber, hcount]

/-- The matrix number's digits are the matrix row, counted from below, and the matrix column. -/
theorem matrixNumber_digits {x y w h : Nat} (hx : x < w) (hy : y < h) (hw : w % 32 = 0) (hh : h % 32 = 0) :
    matrixNumber x y w h < w / 32 * (h / 32) ∧ matrixNumber x y w h / (w / 32) = h / 32 - 1 - y / 32 ∧
      matrixNumber x y w h % (w / 32) = x / 32 := by
  rw [matrixNumber_eq hy hh, Nat.mul_comm (w / 32) (h / 32)]
  exact block_offset (by omega) (by omega)

/-- A sub-frame is `n` logical rows of matrices (R96). -/
theorem subFrameSize_eq {w h n : Nat} (hp : PanelOk w h n) :
    subFrameSize w h = w / 32 * (h / 32) * n * (512 / n) := by
  obtain ⟨⟨-, hw⟩, ⟨-, hh⟩, -, hn⟩ := hp
  have hdots : n * (512 / n) = 512 := Nat.mul_div_cancel' (Nat.dvd_of_mod_eq_zero hn)
  have hwh : w * h = w / 32 * (h / 32) * 512 * 2 := by
    conv_lhs => rw [← Nat.div_add_mod w 32, ← Nat.div_add_mod h 32, hw, hh]
    ring
  rw [subFrameSize, Nat.mul_assoc _ n, hdots, hwh, Nat.mul_div_cancel _ (by decide)]

theorem dotsPerLogicalRow_eq {w h n : Nat} (hp : PanelOk w h n) :
    dotsPerLogicalRow w h n = w / 32 * (h / 32) * (512 / n) := by
  have ⟨_, _, hn, _⟩ := hp
  have hsize := subFrameSize_eq hp
  rw [subFrameSize] at hsize
  rw [dotsPerLogicalRow, Nat.div_div_eq_div_mul, Nat.mul_comm n 2, ← Nat.div_div_eq_div_mul, hsize,
    Nat.mul_right_comm, Nat.mul_div_cancel _ hn]

theorem mapAddr_eq {w h n : Nat} (hp : PanelOk w h n) (x y : Nat) :
    mapAddr x y w h n = (y % n * (w / 32 * (h / 32)) + matrixNumber x y w h) * (512 / n) + x % (512 / n) := by
  rw [mapAddr, dotsPerLogicalRow_eq hp, dotsPerRowPerMatrix]
  ring

theorem dotsPerRowPerMatrix_pos {w h n : Nat} (hp : PanelOk w h n) : 0 < dotsPerRowPerMatrix n := by
  obtain ⟨-, -, hn1, hn⟩ := hp
  exact Nat.div_pos (Nat.le_of_dvd (by decide) (Nat.dvd_of_mod_eq_zero hn)) hn1

/-- R123: the index lies in the sub-frame; its highest digit is the logical row, and the lower two are the matrix
and the dot. -/
theorem mapAddr_digits {x y w h n : Nat} (hp : PanelOk w h n) (hx : x < w) (hy : y < h) :
    mapAddr x y w h n < subFrameSize w h ∧ mapAddr x y w h n / dotsPerLogicalRow w h n = y % n ∧
      mapAddr x y w h n / (512 / n) % (w / 32 * (h / 32)) = matrixNumber x y w h ∧
      mapAddr x y w h n % (512 / n) = x % (512 / n) := by
  have ⟨⟨_, hw⟩, ⟨_, hh⟩, hn, _⟩ := hp
  obtain ⟨hmatrix, -⟩ := matrixNumber_digits hx hy hw hh
  have hdot : x % (512 / n) < 512 / n := Nat.mod_lt _ (dotsPerRowPerMatrix_pos hp)
  have hrow : y % n < n := Nat.mod_lt _ hn
  obtain ⟨hlow, hhigh, hlast⟩ := px_index_div (y := y % n) hdot hmatrix
  rw [mapAddr_eq hp, subFrameSize_eq hp, dotsPerLogicalRow_eq hp]
  refine ⟨px_offset_lt hdot hmatrix hrow, ?_, hlow, hlast⟩
  rw [Nat.mul_comm (w / 32 * (h / 32)) (512 / n), ← Nat.div_div_eq_div_mul, hhigh]

/-- For n = 16 the digits give the visited pixel back (R126). -/
theorem mapAddr_sixteen_injective {w h x y x' y' : Nat} (hp : PanelOk w h 16) (hv : Visited w h x y)
    (hv' : Visited w h x' y') (he : mapAddr x y w h 16 = mapAddr x' y' w h 16) : x = x' ∧ y = y' := by
  obtain ⟨hx, hy, hrow⟩ := hv
  obtain ⟨hx', hy', hrow'⟩ := hv'
  have ⟨⟨_, hw⟩, ⟨_, hh⟩, _⟩ := hp
  obtain ⟨-, hrowDigit, hmatrix, hdot⟩ := mapAddr_digits hp hx hy
  obtain ⟨-, hrowDigit', hmatrix', hdot'⟩ := mapAddr_digits hp hx' hy'
  obtain ⟨-, hup, hcol⟩ := matrixNumber_digits hx hy hw hh
  obtain ⟨-, hup', hcol'⟩ := matrixNumber_digits hx' hy' hw hh
  rw [he, hrowDigit'] at hrowDigit
  rw [he, hdot'] at hdot
  rw [he, hmatrix'] at hmatrix
  rw [← hmatrix, hup'] at hup
  rw [← hmatrix, hcol'] at hcol
  omega

/-- For n = 16 every index of the sub-frame is that of a visited pixel (R126). -/
theorem exists_mapAddr_sixteen {w h idx : Nat} (hp : PanelOk w h 16) (hidx : idx < subFrameSize w h) :
    ∃ x y, Visited w h x y ∧ mapAddr x y w h 16 = idx := by
  have ⟨⟨_, hw⟩, ⟨_, hh⟩, _⟩ := hp
  rw [subFrameSize_eq hp] at hidx
  obtain ⟨rest, dot, hrest, hdot, rfl⟩ := exists_block_offset hidx
  obtain ⟨row, matrix, hrow, hmatrix, rfl⟩ := exists_block_offset (Nat.mul_comm (w / 32 * (h / 32)) 16 ▸ hrest)
  obtain ⟨up, col, hup, hcol, rfl⟩ := exists_block_offset (Nat.mul_comm (w / 32) (h / 32) ▸ hmatrix)
  have hx : (32 * col + dot) / 32 = col ∧ (32 * col + dot) % (512 / 16) = dot := by omega
  have hy : h / 32 - 1 - (32 * (h / 32 - 1 - up) + row) / 32 = up ∧
      (32 * (h / 32 - 1 - up) + row) % 16 = row := by omega
  refine ⟨32 * col + dot, 32 * (h / 32 - 1 - up) + row, ⟨by omega, by omega, by omega⟩, ?_⟩
  rw [mapAddr_eq hp, matrixNumber_eq (by omega) hh, hx.1, hx.2, hy.1, hy.2]

/-! ### The bytes of a pair of pixels (R95, R142, R156) -/

/-- Bit `k` of the three-bit channels, as the claims name them. -/
theorem dotBits_eq_ch3 (cfg : Config) (c : Rgb565) (cm : ColorMatrix) {k : Nat} (hk : k < 3) :
    dotBits cfg c cm k =
      ((ch3 cfg c cm).1.getLsbD k, (ch3 cfg c cm).2.1.getLsbD k, (ch3 cfg c cm).2.2.getLsbD k) := by
  have hlow : k < 5 ∧ k < 6 := by omega
  have hhigh : 2 + k < 5 ∧ 3 + k < 6 := by omega
  cases hsel : cfg.ch3Select <;> cases cm <;>
    simp [dotBits, ch3, threeBits, hi565, mid565, lo565, hsel, hk, hlow, hhigh, ← Nat.add_assoc]

theorem getLsbD_bitAt (v : BitVec 3) (i n : Nat) {j : Nat} (hj : j < 8) :
    (bitAt v i n).getLsbD j = (decide (j = n) && v.getLsbD i) := getLsbD_ofBool_shiftLeft _ n hj

/-- Each of the six bits of a pair's byte is one channel's bit, and no other is placed where it stands (R95). -/
theorem isDotByte_pairByte (cfg : Config) (m : Memory) (src : Buf) (w : Nat) (cm : ColorMatrix) {k : Nat}
    (hk : k < 3) (x y : Nat) : IsDotByte cfg (pairByte cfg m src w cm k x y) m src w cm k x y := by
  simp only [IsDotByte, dotBits_eq_ch3 _ _ _ hk, ← px16_eq_pixel565, pairByte, dotByte, BitVec.getLsbD_or,
    getLsbD_bitAt, Nat.reduceLT]
  simp

/-! ### SPLITDOTS (R156 to R158) -/

/-- The search over the index's own logical row finds every visited pair that maps to the index. -/
theorem mem_pairsAt_iff {w h n idx x y : Nat} (hp : PanelOk w h n) :
    (x, y) ∈ pairsAt w h n idx ↔ Visited w h x y ∧ mapAddr x y w h n = idx := by
  simp only [pairsAt, List.mem_flatMap, List.mem_map, List.mem_filter, List.mem_range, decide_eq_true_eq,
    Prod.mk.injEq]
  constructor
  · rintro ⟨y, ⟨hy, hrow, -⟩, x, ⟨hx, hmap⟩, rfl, rfl⟩
    exact ⟨⟨hx, hy, hrow⟩, hmap⟩
  · rintro ⟨⟨hx, hy, hrow⟩, rfl⟩
    obtain ⟨-, hrowDigit, -⟩ := mapAddr_digits hp hx hy
    exact ⟨y, ⟨hy, hrow, hrowDigit.symm⟩, x, ⟨hx, rfl⟩, rfl, rfl⟩

/-- The bytes that compete for an offset are those of the visited pairs that map there (R158). -/
theorem mem_candidates_iff {cfg : Config} {m : Memory} {src : Buf} {w h n k idx : Nat} {cm : ColorMatrix} {b : Byte}
    (hp : PanelOk w h n) :
    b ∈ candidates cfg m src w h n cm k idx ↔
      ∃ x y, Visited w h x y ∧ mapAddr x y w h n = idx ∧ pairByte cfg m src w cm k x y = b := by
  simp only [candidates, List.mem_dedup, List.mem_map, Prod.exists, mem_pairsAt_iff hp, and_assoc]

/-- Where bytes compete, one of them remains, whatever the free value is (log 6). -/
theorem settle_mem {use o : Nat} {old b : Byte} {bs : List Byte} (hb : b ∈ bs) : settle use o old bs ∈ bs := by
  unfold settle
  split
  · exact absurd hb List.not_mem_nil
  · exact List.mem_singleton_self _
  · have hlt := Nat.mod_lt (Config.freePick use o) (List.length_pos_of_mem hb)
    rw [List.getD_eq_getElem _ _ hlt]
    exact List.getElem_mem hlt

/-- SPLITDOTS completes, and offset `idx` of sub-frame `k` holds what is settled among the pairs that map there. -/
theorem exec_splitdots {s : State} {src dst : Buf} {w h n : Nat} {cm : ColorMatrix} (hp : PanelOk w h n)
    (hready : Ready s.cfg src (2 * w * h) dst (3 * (w * h / 2))) :
    ∃ m, exec (.splitdots src dst w h n cm) s = .next { doneWith s m with freeCount := s.freeCount + 1 } ∧
      (∀ k < 3, ∀ idx < subFrameSize w h,
        Memory.read m (dst.base + (k * subFrameSize w h + idx)) =
          settle s.freeCount (k * subFrameSize w h + idx)
            (Memory.read s.mem (dst.base + (k * subFrameSize w h + idx)))
            (candidates s.cfg s.mem src w h n cm k idx)) ∧
      KeepsOutside s m dst (3 * (w * h / 2)) := by
  refine ⟨_, exec_of_ready (i := .splitdots src dst w h n cm) hp rfl rfl hready, fun k hk idx hidx => ?_,
    fun a ha => Memory.read_store_outside ha⟩
  obtain ⟨hoff, hframe, hindex⟩ := block_offset hk hidx
  refine (Memory.read_store_at hoff).trans ?_
  rw [splitdotsByte, hframe, hindex]
  rfl

/-- Where a visited pair maps, a sub-frame holds the byte of one such pair. -/
theorem isDotByte_of_settled {cfg : Config} {m : Memory} {src : Buf} {w h n k use o x y : Nat} {cm : ColorMatrix}
    {old : Byte} (hp : PanelOk w h n) (hk : k < 3) (hv : Visited w h x y) :
    ∃ x' y', Visited w h x' y' ∧ mapAddr x' y' w h n = mapAddr x y w h n ∧
      IsDotByte cfg (settle use o old (candidates cfg m src w h n cm k (mapAddr x y w h n))) m src w cm k x' y' := by
  obtain ⟨x', y', hv', hmap, hbyte⟩ := (mem_candidates_iff hp).1
    (settle_mem (use := use) (o := o) (old := old) ((mem_candidates_iff hp).2 ⟨x, y, hv, rfl, rfl⟩))
  exact ⟨x', y', hv', hmap, hbyte ▸ isDotByte_pairByte cfg m src w cm hk x' y'⟩

/-- Settles O43: the candidates of an offset are its pairs' bytes, and without a candidate the old byte stays. -/
theorem splitdotsPlacesPairs : Obligations.SplitdotsPlacesPairs := by
  intro s src dst w h n cm hp hready
  obtain ⟨m, hexec, hread, hframe⟩ := exec_splitdots (cm := cm) hp hready
  refine ⟨m, hexec, fun k hk x y hv => ?_, fun k hk idx hidx hnone => ?_, hframe⟩
  · have ⟨hx, hy, _⟩ := hv
    obtain ⟨hidx, -⟩ := mapAddr_digits hp hx hy
    obtain ⟨x', y', hv', hmap, hbyte⟩ := isDotByte_of_settled hp hk hv
    rw [← hread k hk _ hidx] at hbyte
    exact ⟨x', y', hv', hmap, hbyte⟩
  · have hempty : candidates s.cfg s.mem src w h n cm k idx = [] :=
      List.eq_nil_iff_forall_not_mem.2 fun b hb => by
        obtain ⟨x, y, hv, hmap, -⟩ := (mem_candidates_iff hp).1 hb
        exact hnone x y hv hmap
    exact (hread k hk idx hidx).trans (by rw [hempty]; rfl)

/-- Settles O44: for n = 16 one visited pair maps to each offset of a sub-frame. -/
theorem splitdotsSixteenIsExact : Obligations.SplitdotsSixteenIsExact := by
  intro s src dst w h cm hp hready
  obtain ⟨m, hexec, hplaced, -⟩ := splitdotsPlacesPairs s src dst w h 16 cm hp hready
  refine ⟨m, hexec, fun k hk x y hv => ?_, fun o ho => ?_⟩
  · obtain ⟨x', y', hv', hmap, hbyte⟩ := hplaced k hk x y hv
    obtain ⟨rfl, rfl⟩ := mapAddr_sixteen_injective hp hv' hv hmap
    exact hbyte
  · obtain ⟨k, idx, hk, hidx, rfl⟩ := exists_block_offset ho
    obtain ⟨x, y, hv, rfl⟩ := exists_mapAddr_sixteen hp hidx
    exact ⟨k, x, y, hk, hv, rfl⟩

end Sys2Proof.Machine

/-! PROOFS. The address mapper family: what MAPADDR leaves in RESULT (40_address_mapper R122, R124, R125), and the
range, the bijection for n = 16 and the collisions of MapAddr (R123, R126). -/

namespace Sys2Proof.Machine

open Sys2Proof.Claims

/-! ### The command MAPADDR (R124) -/

theorem mapAddr_eq_mapIndex (x y w h n : Nat) : mapAddr x y w h n = mapIndex x y w h n := rfl

/-- MAPADDR has no buffer, so its preconditions are all that START checks. -/
theorem exec_mapaddr {s : State} {x y w h n : Nat} (hp : PanelOk w h n) (hx : x < w) (hy : y < h) :
    exec (.mapaddr x y w h n) s =
      .next { s with status := .done, cause := 0, result := BitVec.ofNat 32 (mapAddr x y w h n) } :=
  exec_of_checks (i := .mapaddr x y w h n) ⟨hp, hx, hy⟩ (fun _ hu => absurd hu List.not_mem_nil)
    (fun _ hu => absurd hu List.not_mem_nil) (fun _ hu => absurd hu List.not_mem_nil)

/-- Settles O34: the sub-frame has `w * h / 2` bytes, and the index is the offset of one of them. -/
theorem mapAddrInRange : Obligations.MapAddrInRange := by
  intro x y w h n hp hx hy
  obtain ⟨hidx, -⟩ := mapAddr_digits hp hx hy
  exact hidx

/-- Settles O33: the index is below half the number of dots, so RESULT holds it whole. -/
theorem mapaddrResult : Obligations.MapaddrResult := by
  intro s x y w h n hp hx hy hw hh
  refine ⟨_, exec_mapaddr hp hx hy, ?_⟩
  have hdots : w * h < 2 ^ 16 * 2 ^ 16 := Nat.mul_lt_mul'' hw hh
  have hidx : mapAddr x y w h n < w * h / 2 := mapAddrInRange x y w h n hp hx hy
  rw [BitVec.toNat_ofNat, Nat.mod_eq_of_lt (by omega), mapAddr_eq_mapIndex]

/-! ### Which coordinates share an index (R126) -/

/-- Settles O35: for n = 16 the digits of an index give its visited pixel back, and every digit has one. -/
theorem mapAddrBijectiveForSixteen : Obligations.MapAddrBijectiveForSixteen := fun _ _ hp =>
  ⟨fun _ _ _ _ => mapAddr_sixteen_injective hp, fun _ => exists_mapAddr_sixteen hp⟩

theorem matrixNumber_congr {x y x' y' : Nat} (w h : Nat) (hcol : x / 32 = x' / 32) (hrow : y / 32 = y' / 32) :
    matrixNumber x y w h = matrixNumber x' y' w h := by
  simp only [matrixNumber, hcol, hrow]

/-- Settles O36: the row, the matrix and the dot of the formula are read from the four numbers alone; with n = 8
rows 0 and 8 are one logical row. -/
theorem mapAddrForgets : Obligations.MapAddrForgets := by
  refine ⟨fun x y x' y' w h n hdot hcol hlogical hrow => ?_, by decide⟩
  rw [mapAddr, mapAddr, dotsPerRowPerMatrix, hdot, hlogical, matrixNumber_congr w h hcol hrow]

end Sys2Proof.Machine

/-! PROOFS. The color codec family: the planes of SPLITPLANES hold every bit of the pixels (41_color_codec R151). -/

namespace Sys2Proof.Machine

open Sys2Proof.Claims

/-- The low `n` bits of a number, each at its weight, add up to the number modulo `2 ^ n`. -/
theorem sum_testBit_mul_two_pow (x n : Nat) :
    ∑ i ∈ Finset.range n, (x.testBit i).toNat * 2 ^ i = x % 2 ^ n := by
  induction n with
  | zero => simp [Nat.mod_one]
  | succ n ih => rw [Finset.sum_range_succ, ih, Nat.toNat_testBit, Nat.mod_pow_succ, Nat.mul_comm (2 ^ n)]

/-- Settles O42: pixel `j` is pixel `j % 8` of run `j / 8`, so its bits in the planes are its own low bits. -/
theorem planesRecoverPixels : Obligations.PlanesRecoverPixels := by
  intro s src dst w h bitlen hw hw8 hh hb1 hbmax hready hsmall
  obtain ⟨m, hexec, hbits, -⟩ := splitplanesSplits s src dst w h bitlen hw hw8 hh hb1 hbmax hready
  refine ⟨_, hexec, fun j hj => ?_⟩
  have hrun : j / 8 < w * h / 8 :=
    Nat.div_lt_div_of_lt_of_dvd (Dvd.dvd.mul_right (Nat.dvd_of_mod_eq_zero hw8) h) hj
  have hbit : ∀ i < bitlen, (Memory.read m (dst.base + (i * (w * h / 8) + j / 8))).getLsbD (j % 8) =
      (Memory.read s.mem (src.base + j)).toNat.testBit i := fun i hi => by
    rw [hbits i hi _ hrun _ (Nat.mod_lt j (by decide)), Nat.div_add_mod]
    rfl
  calc ∑ i ∈ Finset.range bitlen,
        ((Memory.read m (dst.base + (i * (w * h / 8) + j / 8))).getLsbD (j % 8)).toNat * 2 ^ i
      = ∑ i ∈ Finset.range bitlen, ((Memory.read s.mem (src.base + j)).toNat.testBit i).toNat * 2 ^ i :=
        Finset.sum_congr rfl fun i hi => by rw [hbit i (Finset.mem_range.1 hi)]
    _ = (Memory.read s.mem (src.base + j)).toNat := by
        rw [sum_testBit_mul_two_pow, Nat.mod_eq_of_lt (hsmall j hj)]

end Sys2Proof.Machine

/-! PROOFS. The scale down family: Pick (42_scaledown R181 to R183), and the canvases the SCALEDOWN commands
leave (R184, R186 to R188). -/

namespace Sys2Proof.Machine

open Sys2Proof.Claims

/-! ### Pick (R181, R183) -/

/-- Mathlib's `List.duplicate_iff_two_le_count` for every equality test, so also for the one of lists. -/
theorem two_le_count_iff_duplicate {α : Type} [BEq α] [LawfulBEq α] {v : α} {l : List α} :
    2 ≤ l.count v ↔ l.Duplicate v := by
  rw [List.duplicate_iff_sublist]
  exact List.replicate_sublist_iff.symm

/-- `Pick` takes a pixel that occurs twice, where there is one. -/
theorem duplicate_pick {ul ur ll lr v : Pixel} (q : Quadrant) (h : [ul, ur, ll, lr].Duplicate v) :
    [ul, ur, ll, lr].Duplicate (pick ul ur ll lr q) := by
  unfold pick
  split_ifs with hul hur hll
  · simp [hul]
  · simp [List.duplicate_cons_iff, hur]
  · simp [List.duplicate_cons_iff, hll]
  · exact absurd h (List.nodup_iff_forall_not_duplicate.1 (by simp [hul, hur, hll]) v)

/-- `Pick` looks at the upper-left pixel first. -/
theorem pick_eq_ul {ul ur ll lr : Pixel} (q : Quadrant) (h : [ul, ur, ll, lr].Duplicate ul) :
    pick ul ur ll lr q = ul :=
  if_pos (by simpa using h)

theorem count_add_count_le_length {α : Type} [BEq α] [LawfulBEq α] {u v : α} (h : u ≠ v) (l : List α) :
    l.count u + l.count v ≤ l.length := by
  rw [List.length_eq_countP_add_countP (· == u)]
  refine Nat.add_le_add_left (List.countP_mono_left fun x _ hx => ?_) _
  obtain rfl := eq_of_beq hx
  simp [h.symm]

/-- Settles O47: three or four equal pixels, or one pair, leave no other value that occurs twice; of two pairs
one is the upper-left pixel's. -/
theorem pickProperties : Obligations.PickProperties := by
  intro ul ur ll lr v q
  have htwice (hv : 2 ≤ [ul, ur, ll, lr].count v) : 2 ≤ [ul, ur, ll, lr].count (pick ul ur ll lr q) :=
    two_le_count_iff_duplicate.2 (duplicate_pick q (two_le_count_iff_duplicate.1 hv))
  refine ⟨fun hv => ?_, by simpa using pick_cases ul ur ll lr q, fun hv hother => ?_, ?_⟩
  · by_contra hne
    have hpick := htwice hv.le
    have hfour : _ ≤ 4 := count_add_count_le_length hne [ul, ur, ll, lr]
    omega
  · by_contra hne
    exact absurd (htwice hv.ge) (Nat.not_le.2 (Nat.lt_succ_of_le (hother _ hne)))
  · rintro ⟨u, hne, hu, hv⟩
    have hul : ul = u ∨ ul = v := by
      by_contra! hno
      have hthree : _ ≤ 3 := count_add_count_le_length hne [ur, ll, lr]
      rw [List.count_cons_of_ne hno.1] at hu
      rw [List.count_cons_of_ne hno.2] at hv
      omega
    obtain rfl | rfl := hul
    · exact pick_eq_ul q (two_le_count_iff_duplicate.1 hu.ge)
    · exact pick_eq_ul q (two_le_count_iff_duplicate.1 hv.ge)

/-! ### Pixels by their addresses (R12) -/

/-- The `bpp` bytes from address `a` on. -/
def pixelAt (m : Memory) (bpp a : Nat) : Pixel := (List.range bpp).map fun c => Memory.read m (a + c)

theorem framePx_eq_pixelAt (m : Memory) (b : Buf) (bpp w x y : Nat) :
    framePx m b bpp w x y = pixelAt m bpp (pxAddr b bpp w x y) := by
  simp only [framePx, bufByte, pixelAt, pxAddr, Nat.add_assoc]

theorem pixelAt_eq_iff {m : Memory} {bpp a b : Nat} : pixelAt m bpp a = pixelAt m bpp b ↔ SamePx m bpp a b := by
  simp [pixelAt]

theorem getD_pixelAt (m : Memory) {bpp a c : Nat} (hc : c < bpp) :
    (pixelAt m bpp a).getD c 0 = Memory.read m (a + c) := by
  simp [pixelAt, List.getD, hc]

/-! ### The pixel of a block (R182, R184) -/

/-- The claims' choice among addresses is `Pick` among the pixels there. -/
theorem pixelAt_pickAddr (m : Memory) (bpp ul ur ll lr sw sh x y : Nat) :
    pixelAt m bpp (pickAddr m bpp ul ur ll lr (x < sw / 2) (y < sh / 2)) =
      pick (pixelAt m bpp ul) (pixelAt m bpp ur) (pixelAt m bpp ll) (pixelAt m bpp lr)
        (quadrantOf sw sh x y) := by
  simp only [pick, pickAddr, pixelAt_eq_iff, quadrantOf, decide_eq_true_eq]
  split_ifs <;> rfl

theorem blockPx_eq_pixelAt (m : Memory) (src : Buf) (bpp sw sh col row : Nat) :
    blockPx m src bpp sw sh col row =
      pixelAt m bpp (pickAddr m bpp
        (pxAddr src bpp sw (2 * col) (2 * row)) (pxAddr src bpp sw (2 * col + 1) (2 * row))
        (pxAddr src bpp sw (2 * col) (2 * row + 1)) (pxAddr src bpp sw (2 * col + 1) (2 * row + 1))
        (2 * col < sw / 2) (2 * row < sh / 2)) := by
  simp only [blockPx, framePx_eq_pixelAt, pixelAt_pickAddr]

/-! ### The SCALEDOWN commands (R184, R186 to R188) -/

/-- A command that completes with `ScaleDown`'s effect leaves the picked pixels centred in a zero canvas. -/
theorem scalesDown_of_finish {o : Host.Outcome State Fault Refusal} {s : State} {src dst : Buf}
    {bpp sw sh dw dh : Nat} (h : o = .next (scaleDown bpp src dst sw sh dw dh s).finish)
    (hok : ScaleDownOk sw sh dw dh) : ScalesDown o s src dst bpp sw sh dw dh := by
  obtain ⟨-, -, -, -, -, -, hw, hh⟩ := hok
  have hread {x y c : Nat} (hx : x < dw) (hy : y < dh) (hc : c < bpp) :=
    read_store_frame (m := s.mem) (dst := dst) (f := scaleDownByte s.mem src bpp sw sh dw dh) hc hx hy
  refine ⟨_, h, fun bx hbx row hrow c hc => ?_, fun x hx y hy hborder c hc => ?_,
    fun a ha => Memory.read_store_outside ha⟩
  · refine (hread (by omega) (by omega) hc).trans ?_
    rw [scaleDownByte, frameByte_canvas_image _ hc hbx hrow (by omega), blockPx_eq_pixelAt, getD_pixelAt _ hc]
  · exact (hread hx hy hc).trans (frameByte_canvas_border _ hc hx hborder)

/-- Settles O45: the narrow variant's checks hold, and its effect is `ScaleDown` with 1-byte pixels. -/
theorem scaledownIdxResult : Obligations.ScaledownIdxResult := by
  intro s src dst sw sh dw dh hsw hsh hdw hdh hok hready
  exact scalesDown_of_finish (exec_of_ready (i := .scaledownIdx src dst sw sh dw dh)
    ⟨⟨hsw, hsh, hdw, hdh⟩, hok⟩ rfl rfl hready) hok

/-- Settles O46: the checks of both commands hold, and their effect is `ScaleDown`. -/
theorem scaledownResult : Obligations.ScaledownResult := by
  intro s src dst sw sh dw dh hok
  constructor
  · intro hready
    exact scalesDown_of_finish (exec_of_ready (i := .scaledownPup src dst sw sh dw dh) hok rfl rfl hready) hok
  · intro bpp hbpp hready
    exact scalesDown_of_finish
      (exec_of_ready (i := .scaledown src dst sw sh dw dh bpp) ⟨hbpp, hok⟩ rfl rfl hready) hok

end Sys2Proof.Machine

/-! PROOFS. The scale up family: the 2×2 block of every source pixel (43_scaleup R201 to R203, R205, R206), and
what becomes of a uniform source (R204). -/

namespace Sys2Proof.Machine

open Sys2Proof.Claims

/-! ### The pixels of a block (R201, R202) -/

theorem before_eq_sub_one (t : Nat) : before t = t - 1 := by
  unfold before
  split <;> omega

theorem after_eq_min {t n : Nat} (ht : t < n) : after t n = min (t + 1) (n - 1) := by
  unfold after
  split <;> omega

/-- The claims' choice of an address for a corner is the machine's choice of a pixel (R202). -/
theorem pixelAt_cornerAddr (m : Memory) (bpp b d e f h : Nat) {i j : Nat} (hi : i < 2) (hj : j < 2) :
    pixelAt m bpp (cornerAddr m bpp b d e f h i j) =
      cornerPx (pixelAt m bpp b) (pixelAt m bpp d) (pixelAt m bpp e) (pixelAt m bpp f) (pixelAt m bpp h)
        (i = 1) (j = 1) := by
  simp only [cornerAddr, cornerPx, ne_eq, pixelAt_eq_iff, apply_ite (pixelAt m bpp)]
  obtain rfl | rfl : i = 0 ∨ i = 1 := by omega
  all_goals obtain rfl | rfl : j = 0 ∨ j = 1 := by omega
  all_goals rfl

/-- Corner (`i`, `j`) of the block of source pixel (`x`, `y`), with its neighbours clamped at the edges (R201). -/
theorem scaleUpPx_eq_pixelAt (m : Memory) (src : Buf) (bpp : Nat) {sw sh x y i j : Nat} (hx : x < sw) (hy : y < sh)
    (hi : i < 2) (hj : j < 2) :
    scaleUpPx m src bpp sw sh (2 * x + i) (2 * y + j) =
      pixelAt m bpp (cornerAddr m bpp
        (pxAddr src bpp sw x (before y)) (pxAddr src bpp sw (before x) y) (pxAddr src bpp sw x y)
        (pxAddr src bpp sw (after x sw) y) (pxAddr src bpp sw x (after y sh)) i j) := by
  have hblock (t : Nat) {k : Nat} (hk : k < 2) : (2 * t + k) / 2 = t ∧ (2 * t + k) % 2 = k := by omega
  simp only [pixelAt_cornerAddr m bpp _ _ _ _ _ hi hj, scaleUpPx, framePx_eq_pixelAt, before_eq_sub_one,
    after_eq_min hx, after_eq_min hy, hblock x hi, hblock y hj]

/-! ### The SCALEUP commands (R203, R205, R206) -/

/-- A command that completes with `ScaleUp`'s effect leaves the four corners of every source pixel. -/
theorem scalesUp_of_finish {o : Host.Outcome State Fault Refusal} {s : State} {src dst : Buf} {bpp sw sh : Nat}
    (h : o = .next (scaleUp bpp src dst sw sh s).finish) : ScalesUp o s src dst bpp sw sh := by
  refine ⟨_, h, fun x hx y hy i hi j hj c hc => ?_, fun a ha => Memory.read_store_outside ha⟩
  have hsize : 4 * sw * sh * bpp = 2 * sw * (2 * sh) * bpp := by ring
  rw [scaleUp, State.storeDst_mem, hsize, read_store_frame hc (by omega) (by omega),
    frameByte_at _ hc (by omega), scaleUpPx_eq_pixelAt _ _ _ hx hy hi hj, getD_pixelAt _ hc]

/-- Settles O48: the checks of both commands hold, and their effect is `ScaleUp`. -/
theorem scaleupResult : Obligations.ScaleupResult := by
  intro s src dst sw sh hsw hsh
  constructor
  · intro hready
    exact scalesUp_of_finish (exec_of_ready (i := .scaleupIdx src dst sw sh) ⟨hsw, hsh⟩ rfl rfl hready)
  · intro bpp hbpp hready
    exact scalesUp_of_finish
      (exec_of_ready (i := .scaleup src dst sw sh bpp) ⟨hbpp, hsw, hsh⟩ rfl rfl hready)

/-! ### A uniform source (R204) -/

/-- Every corner is the source pixel itself where the pixels above and below it are equal (R202). -/
theorem cornerAddr_of_samePx {m : Memory} {bpp b d e f h i j : Nat} (hbh : SamePx m bpp b h) :
    cornerAddr m bpp b d e f h i j = e :=
  if_neg fun hne => hne.1 hbh

/-- Settles O49: the pixels above and below are equal everywhere, so every block repeats its source pixel. -/
theorem scaleupKeepsUniform : Obligations.ScaleupKeepsUniform := by
  intro s src dst sw sh bpp hsw hsh hbpp hready huniform
  obtain ⟨m, hexec, hblock, -⟩ := (scaleupResult s src dst sw sh hsw hsh).2 bpp hbpp hready
  refine ⟨_, hexec, fun X hX Y hY c hc => ?_⟩
  have hx : X / 2 < sw := by omega
  have hy : Y / 2 < sh := by omega
  have hbefore : before (Y / 2) < sh := by rw [before_eq_sub_one]; omega
  have hafter : after (Y / 2) sh < sh := by rw [after_eq_min hy]; omega
  have hvertical : SamePx s.mem bpp (pxAddr src bpp sw (X / 2) (before (Y / 2)))
      (pxAddr src bpp sw (X / 2) (after (Y / 2) sh)) := fun k hk =>
    (huniform _ hx _ hbefore k hk).trans (huniform _ hx _ hafter k hk).symm
  have hread := hblock _ hx _ hy (X % 2) (Nat.mod_lt _ two_pos) (Y % 2) (Nat.mod_lt _ two_pos) c hc
  rw [Nat.div_add_mod, Nat.div_add_mod, cornerAddr_of_samePx hvertical] at hread
  exact hread.trans (huniform _ hx _ hy c hc)

end Sys2Proof.Machine

/-! PROOFS. The bilinear family (44_bilinear): the scaled size (R221), the interpolation as exact rational
arithmetic (R222, R223), the border whatever the numerics (R224), and the identity case (R227). -/

namespace Sys2Proof.Machine

open Sys2Proof.Claims

/-! ### The scaled size (R221) -/

/-- At equal aspect ratios neither side limits the other, and the division is exact. -/
theorem scaledSize_of_equal_aspect {sw sh dw dh : Nat} (hsh : 1 ≤ sh) (haspect : sw * dh = dw * sh) :
    scaledSize sw sh dw dh = (dw, dh) := by
  rw [scaledSize, if_neg haspect.le.not_gt, Nat.mul_comm dh, haspect, Nat.mul_div_cancel _ hsh]

/-- Settles O50: the claims' formula is the machine's. -/
theorem scaledSizeFits : Obligations.ScaledSizeFits := by
  refine ⟨fun sw sh dw dh _ hsh => ?_, by decide⟩
  obtain ⟨hscw, hsch⟩ := scaledSize_le sw sh dw dh
  exact ⟨rfl, hscw, hsch, scaledSize_of_equal_aspect hsh⟩

/-! ### The border (R224, R226) -/

/-- Settles O54: a byte of a canvas beside its image is 0, whatever the image's pixels are. -/
theorem bilinearBorderForAnyInterp : Obligations.BilinearBorderForAnyInterp := by
  intro interp cfg m src sw sh dw dh scw sch hfit x hx y _ hborder c hc
  have hscaled : scaledSize sw sh dw dh = (scw, sch) := hfit
  simp only [bilinearByte, hscaled]
  exact frameByte_canvas_border _ hc hx hborder

/-! ### The range of the interpolated value (R223) -/

section Range

variable {c00 c10 c01 c11 x y sw sh scw sch : Nat}

theorem blend_nonneg (hsw : 1 ≤ sw) (hsh : 1 ≤ sh) (hscw : 1 ≤ scw) (hsch : 1 ≤ sch) :
    0 ≤ blend c00 c10 c01 c11 (fracAt x sw scw) (fracAt y sh sch) := by
  rw [blend_eq_blendNum hsw hsh hscw hsch]
  positivity

/-- The value exceeds none of its four channels' bound. -/
theorem blend_le {bound : Nat} (hsw : 1 ≤ sw) (hsh : 1 ≤ sh) (hscw : 1 ≤ scw) (hsch : 1 ≤ sch)
    (h00 : c00 ≤ bound) (h10 : c10 ≤ bound) (h01 : c01 ≤ bound) (h11 : c11 ≤ bound) :
    blend c00 c10 c01 c11 (fracAt x sw scw) (fracAt y sh sch) ≤ bound := by
  have hden : (0 : ℚ) < (2 * scw * (2 * sch) : Nat) := Nat.cast_pos.2 (by positivity)
  rw [blend_eq_blendNum hsw hsh hscw hsch, div_le_iff₀ hden]
  exact_mod_cast blendNum_le hscw hsch h00 h10 h01 h11

end Range

/-- Settles O51: the value is within its channels' range, and either rounding is a BILINEAR_ROUND. -/
theorem interpolationIsExact : Obligations.InterpolationIsExact := by
  intro c00 c10 c01 c11 x y sw sh scw sch n h00 h10 h01 h11 hsw hsh hscw hsch v
  have hle : v ≤ (2 ^ n - 1 : Nat) := blend_le hsw hsh hscw hsch (Nat.le_sub_one_of_lt h00)
    (Nat.le_sub_one_of_lt h10) (Nat.le_sub_one_of_lt h01) (Nat.le_sub_one_of_lt h11)
  rw [Nat.cast_sub Nat.one_le_two_pow] at hle
  have hrounded (r : Rounding) := interpExact_eq_rounded (x := x) (y := y) { Config.std with bilinearRound := r }
    h00 h10 h01 h11 hsw hsh hscw hsch
  exact ⟨blend_nonneg hsw hsh hscw hsch, by exact_mod_cast hle, hrounded .trunc, hrounded .nearest⟩

/-! ### An image that is not scaled (R227 (a)) -/

/-- Where the sizes agree every sample coordinate is the output position. -/
theorem coord_of_unscaled {i size : Nat} (h : i < size) : coord i size size = i := by
  have hsize : (size : ℚ) ≠ 0 := Nat.cast_ne_zero.2 (Nat.ne_zero_of_lt h)
  have hlast : (i : ℚ) ≤ size - 1 := le_sub_iff_add_le.2 (by exact_mod_cast h)
  rw [coord, div_self hsize, mul_one, add_sub_cancel_right, max_eq_left (Nat.cast_nonneg i), min_eq_left hlast]

theorem lowAt_of_unscaled {i size : Nat} (h : i < size) : lowAt i size size = i := by
  rw [lowAt, coord_of_unscaled h, Nat.floor_natCast]

theorem fracAt_of_unscaled {i size : Nat} (h : i < size) : fracAt i size size = 0 := by
  rw [fracAt, lowAt_of_unscaled h, coord_of_unscaled h, sub_self]

@[simp] theorem blend_zero_zero (c00 c10 c01 c11 : Nat) : blend c00 c10 c01 c11 0 0 = c00 := by
  simp [blend]

/-- The channel of an image that is not scaled is the source pixel's. -/
theorem channelAt_of_unscaled {cfg : Config} {m : Memory} {src : Buf} {sw sh shift width x y : Nat} (hx : x < sw)
    (hy : y < sh) :
    channelAt cfg m src sw sh sw sh shift width x y = field565 shift width (pixel565 cfg m src.base (y * sw + x)) := by
  rw [channelAt, fracAt_of_unscaled hx, fracAt_of_unscaled hy, blend_zero_zero, lowAt_of_unscaled hx,
    lowAt_of_unscaled hy]

/-- Neither rounding changes an integer. -/
@[simp] theorem rounded_natCast (cfg : Config) (k : Nat) : rounded cfg k = k := by
  unfold rounded
  cases cfg.bilinearRound with
  | trunc => exact Nat.floor_natCast k
  | nearest => exact (Nat.floor_eq_iff (by positivity)).2 ⟨by linarith, by linarith⟩

/-- A pixel is its three channels (R91, R141). -/
theorem eq_of_field565_eq {c d : Rgb565}
    (h : ∀ p ∈ [(11, 5), (5, 6), (0, 5)], field565 p.1 p.2 c = field565 p.1 p.2 d) : c = d := by
  have hhi := h (11, 5) (by simp)
  have hmid := h (5, 6) (by simp)
  have hlo := h (0, 5) (by simp)
  simp only [field565] at hhi hmid hlo
  apply BitVec.eq_of_toNat_eq
  omega

/-- The two bytes of a pixel are those it is read from, in either byte order (R57). -/
theorem getD_px16Bytes_pixel565 {cfg : Config} {m : Memory} {b : Buf} {w x y k : Nat} (hk : k < 2) :
    (px16Bytes cfg (pixel565 cfg m b.base (y * w + x))).getD k 0 = Memory.read m (pxAddr b 2 w x y + k) := by
  have hlower (hi lo : Byte) : (hi ++ lo).extractLsb' 0 8 = lo := BitVec.extractLsb'_append_eq_right
  have hupper (hi lo : Byte) : (hi ++ lo).extractLsb' 8 8 = hi := BitVec.extractLsb'_append_eq_left
  rw [pxAddr, Nat.mul_comm _ 2, px16Bytes, pixel565]
  obtain rfl | rfl : k = 0 ∨ k = 1 := by omega
  all_goals cases cfg.byteOrder <;> simp only [hlower, hupper] <;> rfl

/-- Settles O53: every channel of the image is the source's (R223), so the pixels and their bytes are. -/
theorem bilinearIdentity : Obligations.BilinearIdentity := by
  intro s src dst sw sh dw dh hinterp hsw hsh hdw hdh hready hfit
  obtain ⟨m, hexec, hcanvas, -⟩ := bilinearResult s src dst sw sh dw dh hinterp hsw hsh hdw hdh hready
  obtain ⟨himage, -⟩ := hcanvas sw sh hfit
  refine ⟨m, hexec, fun x hx y hy c hc => ?_⟩
  have hpixel : pixel565 s.cfg m dst.base (((dh - sh) / 2 + y) * dw + ((dw - sw) / 2 + x)) =
      pixel565 s.cfg s.mem src.base (y * sw + x) := eq_of_field565_eq fun p hp => by
    rw [himage x hx y hy p hp, channelAt_of_unscaled hx hy, rounded_natCast]
  rw [← getD_px16Bytes_pixel565 (cfg := s.cfg) hc, hpixel, getD_px16Bytes_pixel565 hc]

end Sys2Proof.Machine

/-! PROOFS. The compositor family: the source frame centred in a zero canvas (45_compositor R241, R244, R245). -/

namespace Sys2Proof.Machine

open Sys2Proof.Claims

/-- A command that completes with `Center`'s effect leaves the source pixels centred in a zero canvas. -/
theorem centers_of_finish {o : Host.Outcome State Fault Refusal} {s : State} {src dst : Buf}
    {bpp sw sh dw dh : Nat} (h : o = .next (centerFrame bpp src dst sw sh dw dh s).finish)
    (hok : CenterOk sw sh dw dh) : Centers o s src dst bpp sw sh dw dh := by
  obtain ⟨-, -, -, -, hw, hh⟩ := hok
  have hread {x y c : Nat} (hx : x < dw) (hy : y < dh) (hc : c < bpp) :=
    read_store_frame (m := s.mem) (dst := dst) (f := centerByte s.mem src bpp sw sh dw dh) hc hx hy
  refine ⟨_, h, fun x hx y hy c hc => ?_, fun x hx y hy hborder c hc => ?_,
    fun a ha => Memory.read_store_outside ha⟩
  · refine (hread (by omega) (by omega) hc).trans ?_
    rw [centerByte, frameByte_canvas_image _ hc hx hy (by omega), framePx_eq_pixelAt, getD_pixelAt _ hc]
  · exact (hread hx hy hc).trans (frameByte_canvas_border _ hc hx hborder)

/-- Settles O55: the checks of both commands hold, and their effect is `Center`, for CENTER_IDX with 1-byte
pixels. -/
theorem centerResult : Obligations.CenterResult := by
  intro s src dst sw sh dw dh hok
  constructor
  · intro hready
    exact centers_of_finish (exec_of_ready (i := .centerIdx src dst sw sh dw dh) hok rfl rfl hready) hok
  · intro bpp hbpp hready
    exact centers_of_finish
      (exec_of_ready (i := .center src dst sw sh dw dh bpp) ⟨hbpp, hok⟩ rfl rfl hready) hok

end Sys2Proof.Machine

/-! PROOFS. The exception family: what a fault writes (60_exceptions R261, R265). -/

namespace Sys2Proof.Machine

open Sys2Proof.Claims

/-- The codes of the four causes (R261). -/
theorem causeCode_range (c : Cause) : causeCode c = 1 ∨ causeCode c = 2 ∨ causeCode c = 3 ∨ causeCode c = 4 := by
  cases c <;> simp [causeCode]

/-- A command that ends in FAULT has taken the fault and nothing else (R265): its effect ends in DONE. -/
theorem eq_takeFault_of_exec {i : Instr} {s t : State} (h : exec i s = .next t) (ht : t.status = .fault) :
    ∃ c, t = s.takeFault c := by
  obtain ⟨c, -, e⟩ | ⟨-, rfl⟩ := exec_cases h
  · exact ⟨c, e⟩
  · simp at ht

/-- The turn of a BUSY block that ends in FAULT has taken the fault and nothing else, with a command or for want
of one (R265). -/
theorem eq_takeFault_of_blockTurn {s t : State} (hs : s.status = .busy) (h : blockTurn s = .next t)
    (ht : t.status = .fault) : ∃ c, t = s.takeFault c := by
  obtain ⟨hidle, -⟩ | ⟨-, ⟨i, -, hexec⟩ | ⟨r, -, e⟩⟩ := blockTurn_cases h
  · exact absurd hs hidle
  · exact eq_takeFault_of_exec hexec ht
  · exact ⟨rejectCause r, e⟩

/-- Settles O8: START touches only the host's bookkeeping besides STATE and CAUSE, and the turn after it takes the
fault. -/
theorem faultEntryKeepsTheRest : Obligations.FaultEntryKeepsTheRest := by
  intro s t hs hends ht
  obtain ⟨c, rfl⟩ := eq_takeFault_of_blockTurn rfl ((startEnds_iff hs).1 hends) ht
  exact ⟨rfl, causeCode_range c⟩

end Sys2Proof.Machine

/-! PROOFS. The hazard family: when the host has its extents back (70_reset_and_hazards R294, R295). -/

namespace Sys2Proof.Machine

open Sys2Proof.Claims

/-- The block neither hands over an extent nor gives one back: that is the host's side (R294, R295). -/
theorem blockTurn_lent {s t : State} (h : blockTurn s = .next t) : t.lent = s.lent := by
  obtain ⟨-, rfl⟩ | ⟨-, ⟨i, -, hexec⟩ | ⟨r, -, rfl⟩⟩ := blockTurn_cases h
  · rfl
  · obtain ⟨-, -, -, hlent, -⟩ := exec_host hexec
    exact hlent
  · rfl

/-- Only a RESET and the READ that shows the end of a command give an extent back (R295; log 11). -/
theorem lent_subset_of_hostTurn {a : HostAction} {s t : State} (h : hostTurn a s = .next t) (hreset : a ≠ .reset)
    (hread : ∀ r, a = .read r → ¬ endSeen r s) : s.lent ⊆ t.lent := by
  cases a with
  | wait => exact fun _ he => (blockTurn_lent h).symm ▸ he
  | write f v => obtain ⟨-, ⟨-, rfl⟩ | ⟨-, u, -, rfl⟩⟩ := hostWrite_cases h <;> exact List.Subset.refl _
  | start =>
    obtain ⟨-, rfl⟩ | ⟨-, rfl⟩ := hostStart_cases h
    · exact List.Subset.refl _
    · exact List.subset_append_right _ _
  | clear => obtain ⟨-, rfl⟩ | ⟨-, rfl⟩ := hostClear_cases h <;> exact List.Subset.refl _
  | read r =>
    obtain ⟨-, rfl⟩ := hostRead_cases h
    exact fun _ he => (if_neg (hread r rfl)).symm ▸ he
  | reset => exact absurd rfl hreset
  | memWrite a b => obtain ⟨-, -, rfl⟩ := hostMemWrite_cases h; exact List.Subset.refl _
  | memRead a => obtain ⟨-, -, rfl⟩ := hostMemRead_cases h; exact List.Subset.refl _

/-- Settles O57: the block's turn keeps the extents, and a host action that gives one back is a RESET or the READ
that shows DONE or FAULT. -/
theorem lentStaysUntilReadOrReset : Obligations.LentStaysUntilReadOrReset := by
  intro s t h hreset hread
  obtain ⟨-, hblock⟩ | ⟨a, rest, hp, hhost⟩ := step_cases h
  · exact fun _ he => (blockTurn_lent hblock).symm ▸ he
  · refine lent_subset_of_hostTurn (s := { s with pending := rest }) hhost (fun e => hreset rest (e ▸ hp)) ?_
    rintro r rfl ⟨rfl, hend⟩
    obtain ⟨hdone, hfault⟩ := hread rest hp
    exact hend.elim hdone hfault

end Sys2Proof.Machine
